-- ==== Sys2Proof/Word.lean ====
section
/-! DEFINITION. The words of the nanocomp TX: bytes and addresses, the byte negation, and the items of an
output trace. -/

namespace Sys2Proof

/-- An 8-bit byte (`spec/92` D29). -/
abbrev Byte := BitVec 8

/-- A 16-bit target address (R51). -/
abbrev Addr := BitVec 16

/-- A payload length or payload cursor: 17 bits, so that 65536 fits (R9, D11). -/
abbrev Len := BitVec 17

/-- `neg8(a) = (256 - a) mod 256`, the two's-complement negation of a byte (R14). -/
def neg8 (a : Byte) : Byte := -a

/-- The two durations a line segment can have (R7, R16): `T_SHORT` / `N_SHORT` and `T_LONG` / `N_LONG`. -/
inductive Dur where
  | short
  | long
deriving DecidableEq, Repr

/-- One line segment: `H(d)` is high for `d`, `L(d)` is low for `d` (R16). -/
structure Segment where
  high : Bool
  dur : Dur
deriving DecidableEq, Repr

end Sys2Proof
end

