-- ==== Sys2Proof/Config.lean ====
section
/-! DEFINITION. What is fixed for one machine: the protocol constants (R8), the open timing parameters (R7, R10,
D3, D20) and the values the spec leaves free. -/

namespace Sys2Proof.Config

/-- The clock periods of the two segment lengths, with the one constraint on them: `1 <= N_SHORT < N_LONG`
(R10, D20). -/
structure Timing where
  nShort : Nat
  nLong : Nat
  short_pos : 0 < nShort
  short_lt_long : nShort < nLong
deriving DecidableEq, Repr

/-- FREE VALUE (log 5): `N_SHORT - 1`; the spec leaves `N_SHORT` OPEN (R10, U1). -/
opaque nShortPred : Nat

/-- FREE VALUE (log 5): `N_LONG - N_SHORT - 1`; the spec leaves `N_LONG` OPEN (R10, U1). -/
opaque nLongExtra : Nat

/-- The timing of this machine. Every pair with `1 <= N_SHORT < N_LONG` is one value of the two free constants, and
nothing else is known of it (R10). -/
def timing : Timing where
  nShort := nShortPred + 1
  nLong := nShortPred + 1 + nLongExtra + 1
  short_pos := Nat.succ_pos _
  short_lt_long := by omega

/-- The number of clock periods of a segment (R16, R107). -/
def Timing.periods (c : Timing) : Dur → Nat
  | .short => c.nShort
  | .long => c.nLong

/-- FREE VALUE (log 7): the byte the payload source returns for an index it holds no byte for; the block "reads
whatever the source returns" (R187). The same index gives the same byte (R59). -/
opaque unheldPayload : Addr → Byte

/-- FREE VALUE (log 15): the contents of register number `r` after the `n`-th loss of power; "every state element ...
is unspecified" (R182, R174). -/
opaque powerOn : (r n : Nat) → Nat

/-- `T_SHORT` in microseconds at the reference timing, 0.25 ms (R7). No rule depends on it. -/
def tShortRef : Nat := 250

/-- `T_LONG` in microseconds at the reference timing, 1.0 ms (R7). No rule depends on it. -/
def tLongRef : Nat := 1000

/-- `BASE` of the reference transfer (R6). -/
def baseRef : Addr := 0x1000

/-- There is no indicator output (R5, R106, D19). -/
def hasInd : Bool := false

/-- The preamble byte, sent twice (R8, R78). -/
def preambleByte : Byte := 0xFF

/-- First byte of both markers (R8, R78). -/
def markS : Byte := 0x53

/-- Second byte of the block-start marker (R8, R78). -/
def markBlock : Byte := 0x31

/-- Second byte of the end-of-transfer marker (R8, R78). -/
def markEnd : Byte := 0x4A

/-- The alignment unit, which is also the longest block (R8). -/
def alignUnit : Nat := 16

/-- What is added to the data length to form the length byte (R8, R74). -/
def lenOffset : Nat := 2

/-- The size of the target address space (R51, R61). -/
def targetSpace : Nat := 65536

end Sys2Proof.Config
end

