-- ==== Sys2Proof/Syntax.lean ====
section
/-! DEFINITION. The operations of the nanocomp TX: one constructor for each row of spec/opcode_table.json (R81). -/

namespace Sys2Proof

/-- The sixteen operations of R81. `BASE` and `LEN` are operands of `TRANSMIT` and `START` (R136, R150); what the
other operations read (`BLEN`, `ADDR`, `CSUM`, the payload) stands in the state. -/
inductive Instr where
  /-- `SEND_BIT 1` (R100). -/
  | sendBit1
  /-- `SEND_BIT 0` (R101). -/
  | sendBit0
  /-- `SEND_BYTE b, count` (R111). -/
  | sendByte (b : Byte) (count : Bool)
  /-- `PREAMBLE` (R120). -/
  | preamble
  /-- `BLK_MARK`, block step 1 (R123). -/
  | blkMark
  /-- `BLK_CLR`, block step 2 (R124). -/
  | blkClr
  /-- `BLK_LEN`, block step 3 (R125). -/
  | blkLen
  /-- `BLK_ADDR`, block step 4 (R126). -/
  | blkAddr
  /-- `BLK_DATA`, block step 5 (R127). -/
  | blkData
  /-- `BLK_CK`, block step 6 (R128). -/
  | blkCk
  /-- `BLK_ADV`, block step 7 (R129). -/
  | blkAdv
  /-- `BLOCK` (R130). -/
  | block
  /-- `TRAILER` (R135). -/
  | trailer
  /-- `TRANSMIT` (R136). -/
  | transmit (base : Addr) (len : Len)
  /-- `START` (R150). -/
  | start (base : Addr) (len : Len)
  /-- `RESET` (R151). -/
  | reset
deriving DecidableEq, Repr

end Sys2Proof
end

