-- ==== Sys2Proof/Decode.lean ====
section
/-! DEFINITION. The wire formats of `spec/30_encoding.md` with their decoders (R70 to R79, R88), and the operation
word by which the model calls one operation, with its decoder and its encoder (log 2). -/

namespace Sys2Proof

/-- Why a wire form or an operation word is not accepted. -/
inductive Reject where
  /-- A segment pair that is not high then low of one duration (R70, R83). Safe. -/
  | badPulse
  /-- Ten bits that do not begin with 0 and end with 1, or fewer than ten (R88). Safe. -/
  | badFrame
  /-- A stream that does not begin `FF FF` (R83). Safe. -/
  | badPreamble
  /-- Neither a block marker nor the trailer where one must stand (R72, R73). Safe. -/
  | badMarker
  /-- A length byte outside 0x03 to 0x12 (R79, R83). Safe. -/
  | badLength
  /-- A block whose bytes do not sum to 0 (R77). Safe. -/
  | badChecksum
  /-- A packet or stream that ends too early (R79). Safe. -/
  | truncated
  /-- An operation word whose selector is no row of the operation table (log 2). Safe. -/
  | unknownSelector
  /-- An operation word whose constant wire bits are not the table's (log 2). Safe. -/
  | badConstant
  /-- An operation word with a bit set that no field of its operation holds (log 2). Safe. -/
  | strayBits
deriving DecidableEq, Repr

/-! ### Format P: the pulse pair (R70) -/

/-- The duration that carries a logical bit: short for 1, long for 0 (R70, R100, R101). -/
def bitDur (v : Bool) : Dur :=
  if v then .short else .long

/-- The pulse pair of a logical bit (R70). -/
def pulse (v : Bool) : List Segment :=
  [⟨true, bitDur v⟩, ⟨false, bitDur v⟩]

/-- The logical bits of a segment list: pairs of a high and a low segment of one duration (R70, R102). -/
def decodePulses : List Segment → Except Reject (List Bool)
  | [] => .ok []
  | [_] => .error .badPulse
  | h :: l :: rest =>
    if h.high && !l.high && h.dur == l.dur then
      match decodePulses rest with
      | .ok bits => .ok ((h.dur == .short) :: bits)
      | .error e => .error e
    else .error .badPulse

/-! ### Format F: the frame (R71) -/

/-- `framebit(b, p)`: 0 at position 0, `b[p - 1]` at positions 1 to 8, 1 at position 9 (R71). Positions above 9 do
not arise (R30). -/
def frameBit (b : Byte) (p : Nat) : Bool :=
  if p = 0 then false else if p ≤ 8 then b.getLsbD (p - 1) else true

/-- `FrameBits(b)` (R71). -/
def frameBits (b : Byte) : List Bool :=
  (List.range 10).map (frameBit b)

/-- The number whose bit `k` is element `k` of the list (R13, R88). -/
def bitsValue : List Bool → Nat
  | [] => 0
  | v :: rest => v.toNat + 2 * bitsValue rest

/-- The byte a frame carries, and the bits after it (R88). -/
def decodeFrame : List Bool → Except Reject (Byte × List Bool)
  | f0 :: f1 :: f2 :: f3 :: f4 :: f5 :: f6 :: f7 :: f8 :: f9 :: rest =>
    if !f0 && f9 then .ok (BitVec.ofNat 8 (bitsValue [f1, f2, f3, f4, f5, f6, f7, f8]), rest)
    else .error .badFrame
  | _ => .error .badFrame

/-- The bytes of a run of frames, at most `fuel` of them. -/
def decodeFramesFuel : (fuel : Nat) → List Bool → Except Reject (List Byte)
  | _, [] => .ok []
  | 0, _ => .error .badFrame
  | fuel + 1, bits =>
    match decodeFrame bits with
    | .ok (b, rest) =>
      match decodeFramesFuel fuel rest with
      | .ok bs => .ok (b :: bs)
      | .error e => .error e
    | .error e => .error e

/-- The bytes of a run of frames (R73, R88). -/
def decodeFrames (bits : List Bool) : Except Reject (List Byte) :=
  decodeFramesFuel bits.length bits

/-! ### Format B: the block packet (R72) -/

/-- The sum of bytes modulo 256 (R14). -/
def sum8 (l : List Byte) : Byte :=
  l.foldl (· + ·) 0

/-- `ADDR[15:8]` (R75). -/
def hiByte (a : Addr) : Byte :=
  a.extractLsb' 8 8

/-- `ADDR[7:0]` (R75). -/
def loByte (a : Addr) : Byte :=
  a.extractLsb' 0 8

/-- `LENB = n + 2` as an 8-bit value (R74). -/
def lenByte (n : Nat) : Byte :=
  BitVec.ofNat 8 (n + Config.lenOffset)

/-- The counted bytes of a block, in the order they are sent (R72). -/
def countedBytes (a : Addr) (d : List Byte) : List Byte :=
  [lenByte d.length, hiByte a, loByte a] ++ d

/-- `BlockBytes(a, d)` (R72): markers, counted bytes, checksum byte (R77). -/
def blockBytes (a : Addr) (d : List Byte) : List Byte :=
  [Config.markS, Config.markBlock] ++ countedBytes a d ++ [neg8 (sum8 (countedBytes a d))]

/-- One block packet read from the front of a byte list: its address, its data, and the bytes after it. The length
comes from `LENB` (R79), the checksum is verified (R77). -/
def decodeBlock : List Byte → Except Reject ((Addr × List Byte) × List Byte)
  | m0 :: m1 :: lenb :: hi :: lo :: rest =>
    if m0 ≠ Config.markS ∨ m1 ≠ Config.markBlock then .error .badMarker
    else if lenb.toNat < 3 ∨ 18 < lenb.toNat then .error .badLength
    else
      let n := lenb.toNat - Config.lenOffset
      match rest.drop n with
      | [] => .error .truncated
      | ck :: rest' =>
        if sum8 ([lenb, hi, lo] ++ rest.take n ++ [ck]) = 0 then .ok ((hi ++ lo, rest.take n), rest')
        else .error .badChecksum
  | _ => .error .truncated

/-! ### Format S: the stream (R73), and the split into blocks (R131, R136) -/

/-- The block sizing policy on natural numbers: `min(remaining, 16 - a[3:0])` (R131). -/
def blockLength (remaining a : Nat) : Nat :=
  min remaining (Config.alignUnit - a % Config.alignUnit)

/-- One block of a split: target address, index of its first payload byte, data length. -/
structure Slice where
  addr : Nat
  first : Nat
  len : Nat
deriving DecidableEq, Repr

/-- `Split(a, p)` (R136), at most `fuel` blocks. -/
def splitFuel (len : Nat) : (fuel a p : Nat) → List Slice
  | 0, _, _ => []
  | fuel + 1, a, p =>
    if len ≤ p then []
    else
      let n := blockLength (len - p) a
      ⟨a, p, n⟩ :: splitFuel len fuel (a + n) (p + n)

/-- `Split(BASE, 0)` (R136). Each block has at least one byte, so `len` blocks suffice. -/
def split (base len : Nat) : List Slice :=
  splitFuel len len base 0

/-- The data bytes of a slice (R76). -/
def Slice.data (payload : Nat → Byte) (sl : Slice) : List Byte :=
  (List.range sl.len).map fun k => payload (sl.first + k)

/-- The packet of a slice (R72). -/
def Slice.packet (payload : Nat → Byte) (sl : Slice) : List Byte :=
  blockBytes (BitVec.ofNat 16 sl.addr) (sl.data payload)

/-- The preamble bytes (R78). -/
def preambleBytes : List Byte := [Config.preambleByte, Config.preambleByte]

/-- The block-start marker (R78). -/
def markBytes : List Byte := [Config.markS, Config.markBlock]

/-- The end-of-transfer marker (R78). -/
def trailerBytes : List Byte := [Config.markS, Config.markEnd]

/-- `Stream` of a transfer (R73, R136). -/
def stream (base len : Nat) (payload : Nat → Byte) : List Byte :=
  preambleBytes ++ (split base len).flatMap (Slice.packet payload) ++ trailerBytes

/-- The logical bits of a byte list, nothing inserted between frames (R73). -/
def wireBits (bytes : List Byte) : List Bool :=
  bytes.flatMap frameBits

/-- The line segments of a byte list, nothing inserted between pulse pairs (R73). -/
def wireSegments (bytes : List Byte) : List Segment :=
  (wireBits bytes).flatMap pulse

/-- The blocks of a stream after its preamble, up to and with its trailer. -/
def decodeBlocksFuel : (fuel : Nat) → List Byte → Except Reject (List (Addr × List Byte))
  | 0, _ => .error .truncated
  | fuel + 1, bytes =>
    if bytes = trailerBytes then .ok []
    else
      match decodeBlock bytes with
      | .ok (blk, rest) =>
        match decodeBlocksFuel fuel rest with
        | .ok blks => .ok (blk :: blks)
        | .error e => .error e
      | .error e => .error e

/-- The blocks a stream carries (R73, R79, R138). -/
def decodeStream : List Byte → Except Reject (List (Addr × List Byte))
  | p0 :: p1 :: rest =>
    if [p0, p1] = preambleBytes then decodeBlocksFuel (rest.length + 1) rest else .error .badPreamble
  | _ => .error .badPreamble

/-! ### The operation word (log 2)

The spec selects no operation by a bit pattern (R81). To call one operation by itself the model uses a 48-bit
operation word: bits 7 to 0 hold the row's number in spec/opcode_table.json, counted from 1, and the bits from 8 up
hold the row's operands. Where the table's encoding of the row is a pulse pair or whole frames that no register
decides, those wire bits stand there in time order, the first in bit 8. -/

/-- The width of an operation word. -/
abbrev OpWord := BitVec 48

/-- The frame of a byte as ten bits, bit 0 first in time (R71). -/
def frameWord (b : Byte) : BitVec 10 :=
  1#1 ++ b ++ 0#1

/-- Two frames, the first in the low bits. -/
def framePair (x y : Byte) : BitVec 40 :=
  (frameWord y ++ frameWord x).setWidth 40

/-- `HL`: the high segment first, then the low one (R70). -/
def pulseWord : BitVec 40 := 0b01

/-- The row number of an operation in spec/opcode_table.json, counted from 1 (log 2). -/
def Instr.selector : Instr → BitVec 8
  | .sendBit1 => 1
  | .sendBit0 => 2
  | .sendByte _ _ => 3
  | .preamble => 4
  | .blkMark => 5
  | .blkClr => 6
  | .blkLen => 7
  | .blkAddr => 8
  | .blkData => 9
  | .blkCk => 10
  | .blkAdv => 11
  | .block => 12
  | .trailer => 13
  | .transmit _ _ => 14
  | .start _ _ => 15
  | .reset => 16

/-- The bits above the selector (log 2): wire bits for the rows that fix them, `BASE` below `LEN` for `TRANSMIT` and
`START`, none for the rows whose wire form a register decides or that emit nothing. -/
def Instr.body : Instr → BitVec 40
  | .sendBit1 | .sendBit0 => pulseWord
  | .sendByte b count => (BitVec.ofBool count ++ frameWord b).setWidth 40
  | .preamble => framePair Config.preambleByte Config.preambleByte
  | .blkMark => framePair Config.markS Config.markBlock
  | .trailer => framePair Config.markS Config.markEnd
  | .transmit base len | .start base len => (len ++ base).setWidth 40
  | .blkClr | .blkLen | .blkAddr | .blkData | .blkCk | .blkAdv | .block | .reset => 0

/-- The operation word of an operation. -/
def encode (i : Instr) : OpWord :=
  i.body ++ i.selector

/-- An operation whose body is a constant: the body must be it. -/
def decodeConstant (expected body : BitVec 40) (e : Reject) (i : Instr) : Except Reject Instr :=
  if body = expected then .ok i else .error e

/-- `SEND_BYTE`: a frame in bits 0 to 9 of the body (start bit 0, stop bit 1: R88), `count` in bit 10. -/
def decodeSendByte (body : BitVec 40) : Except Reject Instr :=
  if body.getLsbD 0 || !body.getLsbD 9 then .error .badFrame
  else if body.extractLsb' 11 29 ≠ 0 then .error .strayBits
  else .ok (.sendByte (body.extractLsb' 1 8) (body.getLsbD 10))

/-- `TRANSMIT` and `START`: `BASE` in bits 0 to 15 of the body, `LEN` in bits 16 to 32. -/
def decodeBaseLen (body : BitVec 40) (mk : Addr → Len → Instr) : Except Reject Instr :=
  if body.extractLsb' 33 7 ≠ 0 then .error .strayBits
  else .ok (mk (body.extractLsb' 0 16) (body.extractLsb' 16 17))

/-- The operation of an operation word, total on every word. -/
def decode (w : OpWord) : Except Reject Instr :=
  let body := w.extractLsb' 8 40
  match (w.extractLsb' 0 8).toNat with
  | 1 => decodeConstant pulseWord body .badPulse .sendBit1
  | 2 => decodeConstant pulseWord body .badPulse .sendBit0
  | 3 => decodeSendByte body
  | 4 => decodeConstant (framePair Config.preambleByte Config.preambleByte) body .badConstant .preamble
  | 5 => decodeConstant (framePair Config.markS Config.markBlock) body .badConstant .blkMark
  | 6 => decodeConstant 0 body .strayBits .blkClr
  | 7 => decodeConstant 0 body .strayBits .blkLen
  | 8 => decodeConstant 0 body .strayBits .blkAddr
  | 9 => decodeConstant 0 body .strayBits .blkData
  | 10 => decodeConstant 0 body .strayBits .blkCk
  | 11 => decodeConstant 0 body .strayBits .blkAdv
  | 12 => decodeConstant 0 body .strayBits .block
  | 13 => decodeConstant (framePair Config.markS Config.markEnd) body .badConstant .trailer
  | 14 => decodeBaseLen body .transmit
  | 15 => decodeBaseLen body .start
  | 16 => decodeConstant 0 body .strayBits .reset
  | _ => .error .unknownSelector

/-- The operation word made of bytes, the first byte lowest; bytes after the sixth are no part of a word. -/
def wordOfBytes (bytes : List Byte) : OpWord :=
  BitVec.ofNat 48 (bytes.foldr (fun b acc => b.toNat + 256 * acc) 0)

/-- Decoding is total on any bytes: a word has at most six. -/
def decodeBytes (bytes : List Byte) : Except Reject Instr :=
  if bytes.length ≤ 6 then decode (wordOfBytes bytes) else .error .strayBits

/-- The operation word the host names by a bit count and a number: bits from `nbits` up are 0. -/
def tableWord (nbits w : Nat) : Nat :=
  w % 2 ^ nbits

/-- The operation the decoder reads from the table word `w` of `nbits` bits. -/
def decodeTableWord (nbits w : Nat) : Option Instr :=
  if tableWord nbits w < 2 ^ 48 then (decode (BitVec.ofNat 48 (tableWord nbits w))).toOption else none

end Sys2Proof
end

