-- ==== Sys2Proof/Machine/State.lean ====
section
/-! DEFINITION. The state of the nanocomp TX as plain data (`spec/10_state.md`), what can stop a step, and the state
after reset (R38). -/

namespace Sys2Proof.Machine

/-- `PHASE`: the state of the Block Protocol Encoder (R26). -/
inductive Phase where
  | idle
  | preamble
  | blockStart
  | blockBody
  | blockChecksum
  | trailer
  | done
deriving DecidableEq, Repr

/-- What the block samples on one rising clock edge (R146, R152). `pData = none` says that the payload source answers
in time, with `PAYLOAD[P_ADDR]` (R155). `pData = some b` says that `P_DATA` holds `b` instead: a late answer (R191,
log 10). -/
structure Pins where
  rst : Bool
  start : Bool
  base : Addr
  len : Len
  pData : Option Byte
deriving DecidableEq, Repr

/-- An edge on which the host asks for nothing. -/
def Pins.quiet : Pins where
  rst := false
  start := false
  base := 0
  len := 0
  pData := none

/-- What the outside of the block does next (R158, log 6). -/
inductive Stimulus where
  /-- A rising clock edge with the sampled inputs (R146). -/
  | edge (pins : Pins)
  /-- The host places a payload byte (R158, R183). -/
  | place (index : Addr) (byte : Byte)
  /-- Loss of power (R174). -/
  | powerLoss
  /-- The call of one operation at the abstract level, by its operation word (R11, R17, logs 1 and 2). -/
  | call (word : OpWord)
deriving DecidableEq, Repr

/-- The payload memory: (index, byte) pairs, indices strictly rising and below 65536 (R50). An index with no entry
holds no byte. -/
abbrev Memory := List Host.Cell

/-- The canonical form of a payload memory above an index bound: rising indices, each at least `lo` and below 65536. -/
def Memory.wfFrom (lo : Nat) : Memory → Bool
  | [] => true
  | (i, _) :: rest => decide (lo ≤ i) && decide (i < 65536) && Memory.wfFrom (i + 1) rest

/-- The canonical form of a payload memory. An entry is never equal to what an index without entry reads as, which is
"no byte held" (log 7). -/
def Memory.wf (m : Memory) : Bool :=
  Memory.wfFrom 0 m

/-- The state: the thirteen registers of R38, then what the block reads from outside, then the ghost traces of R12,
then the model's own two fields. -/
structure State where
  /-- `LINE`, high or low (R21). -/
  line : Bool
  /-- `PHASE` (R26). -/
  phase : Phase
  /-- `ERR` (R34). -/
  err : Bool
  /-- `CSUM`, the transmission checksum (R22, R39). -/
  csum : BitVec 8
  /-- `ADDR`, the transfer address cursor (R24). -/
  addr : Addr
  /-- `PCUR`, the payload cursor (R25). -/
  pcur : Len
  /-- `LENL`, the payload length latched at START (R35). -/
  lenl : Len
  /-- `BLEN`, the data length of the block in progress (R27). -/
  blen : BitVec 5
  /-- `BIDX`, the index of the byte in progress within the phase (R28). -/
  bidx : BitVec 5
  /-- `SHREG`, the byte being framed (R29). -/
  shreg : BitVec 8
  /-- `BITPOS`, the index of the frame bit in progress (R30). -/
  bitpos : BitVec 4
  /-- `HALF`: false is 0, the high half; true is 1, the low half (R31). -/
  half : Bool
  /-- `TIMER`, the clock periods left in the segment in progress (R32, U15). -/
  timer : Nat
  /-- `PAYLOAD` (R50), owned by the payload source. -/
  payload : Memory
  /-- What the outside does at the coming steps, the next first (log 6). -/
  inputs : List Stimulus
  /-- `BYTETRACE` (R12). -/
  byteTrace : List Byte
  /-- `BITTRACE` (R12). -/
  bitTrace : List Bool
  /-- `LTRACE` (R12). -/
  lTrace : List Segment
  /-- The model's own: false from a loss of power to the next reset (R182, log 15). -/
  live : Bool
  /-- The model's own: how many losses of power there were (log 15). -/
  powerLosses : Nat
deriving DecidableEq, Repr

/-- Why a step stops with a fault. The block itself has none (R175). -/
inductive Fault where
  /-- Raised by `BLK_DATA` and by the clocked machine when a payload byte is to be read at an index that is not below
  `LENL`: the payload space has no such index (R17, R50). No reachable state does so. Safe (log 8). -/
  | payloadIndexOutOfRange (index : Nat)
deriving DecidableEq, Repr

/-- Why a step is refused. -/
inductive Refusal where
  /-- Raised by `exec` for an operation without a meaning yet. None is left. Safe. -/
  | notModelled (mnemonic : String)
  /-- Raised by `step` for a called operation word that is no operation (log 2). Safe. -/
  | undecodable (why : Reject)
  /-- Raised by `step` for a called operation that is not well formed: `TRANSMIT` with `BASE + LEN > 65536` (R136).
  Safe. -/
  | illFormed
  /-- Raised by `TRANSMIT` when `BASE + LEN > 65536`: the wrapped waveform is "deliberately not reproduced" (R136, U6,
  log 13). Safe. -/
  | transferDoesNotFit
  /-- Raised by `BLOCK` when `PCUR < LENL` does not hold: `BLOCK` is not entered then (R130, R145, log 12). Safe. -/
  | noPayloadLeft
  /-- Raised by the clocked machine in a sequencer position that the table of R141 does not hold: a model "should ...
  not give it a meaning" (R141, D27, U14, log 11). Safe. -/
  | unreachablePosition
  /-- Raised by `step` between a loss of power and the next reset, for everything but a reset: "no behaviour before its
  first reset" (R182, log 15). Safe. -/
  | beforeFirstReset
deriving DecidableEq, Repr

/-- The machine right after reset (R38, R180). The traces, the payload and the input schedule are empty (log 17). -/
def State.reset : State where
  line := false
  phase := .idle
  err := false
  csum := 0
  addr := 0
  pcur := 0
  lenl := 0
  blen := 0
  bidx := 0
  shreg := 0
  bitpos := 0
  half := false
  timer := 0
  payload := []
  inputs := []
  byteTrace := []
  bitTrace := []
  lTrace := []
  live := true
  powerLosses := 0

end Sys2Proof.Machine
end

