-- ==== Sys2Proof/Machine/Flags.lean ====
section
/-! DEFINITION. The status outputs (R34, R157) and the checksum accumulation, which keeps no carry (R110). The block
has no arithmetic flags. -/

namespace Sys2Proof.Machine

/-- `PHASE` is none of `Idle`, `Done`. -/
def Phase.busy : Phase → Bool
  | .idle | .done => false
  | .preamble | .blockStart | .blockBody | .blockChecksum | .trailer => true

/-- The output `BUSY`: a transfer is in progress (R34). -/
def State.busy (s : State) : Bool :=
  s.phase.busy

/-- The output `DONE`: the last transfer started has reached the end of its trailer (R34). -/
def State.done (s : State) : Bool :=
  s.phase == .done

/-- `CSUM` after a byte is sent: `CSUM +8 b` for a counted byte, with the carry dropped, and unchanged otherwise
(R110, R117). -/
def accumulate (csum : BitVec 8) (b : Byte) (count : Bool) : BitVec 8 :=
  if count then csum + b else csum

end Sys2Proof.Machine
end

