-- ==== Sys2Proof/Machine/Operands.lean ====
section
/-! DEFINITION. What an operation reads from the state: the payload memory and its port (R50, R155), and the bytes an
operation forms from registers (R72 to R77, R131). -/

namespace Sys2Proof.Machine

/-- The byte the payload source holds at an index, if it holds one. -/
def Memory.get? (m : Memory) (i : Nat) : Option Byte :=
  match m with
  | [] => none
  | (j, b) :: rest => if j = i then some b else Memory.get? rest i

/-- What an index of the payload space reads as when the source holds no byte for it: a free value (R187, log 7). -/
def unlistedByte (i : Addr) : Byte :=
  Config.unheldPayload i

/-- `MemRead(i, 1)`: one byte of the payload space (R17, R58). -/
def State.memRead (s : State) (i : Addr) : Byte :=
  (s.payload.get? i.toNat).getD (unlistedByte i)

/-- `PAYLOAD` as a function of the natural index (R50). DESIGN CHOICE (log 22): an index above 65535, which no run reaches,
is taken to 16 bits. -/
def State.payloadAt (s : State) (i : Nat) : Byte :=
  s.memRead (BitVec.ofNat 16 i)

/-- The index of data byte `k` of the block in progress, on the natural numbers (R76). -/
def State.dataIndex (s : State) (k : Nat) : Nat :=
  s.pcur.toNat + k

/-- `DATA[k]` of the block in progress (R76). -/
def State.dataByte (s : State) (k : Nat) : Byte :=
  s.payloadAt (s.dataIndex k)

/-- The position in which the next byte to load is a data byte: `BlockBody` with `2 <= BIDX <= BLEN + 1` (R141,
R155). -/
def State.wantsData (s : State) : Bool :=
  s.phase == .blockBody && decide (2 ≤ s.bidx.toNat) && decide (s.bidx.toNat ≤ s.blen.toNat + 1)

/-- The output `P_ADDR`, which has 16 bits (R152, R155, log 22). -/
def State.pAddr (s : State) : Addr :=
  if s.wantsData then BitVec.ofNat 16 (s.dataIndex (s.bidx.toNat - 2)) else s.pcur.setWidth 16

/-- `P_DATA` as sampled on an edge: what the source holds at `P_ADDR`, or what the schedule says stands there instead
(R155, R191, log 10). -/
def State.sampleData (s : State) (p : Pins) : Byte :=
  p.pData.getD (s.memRead s.pAddr)

/-- `BLEN` of the block that starts here: `min(LENL - PCUR, 16 - ADDR[3:0])` (R131). DESIGN CHOICE (log 22): past the end
of the payload, which no run reaches, `LENL - PCUR` is no natural number (R14) and the model takes it as 0. The row
(`BlockStart`, 1) of R141 then sizes an empty block and loads `LENB` = 02. -/
def State.nextBlen (s : State) : BitVec 5 :=
  BitVec.ofNat 5 (blockLength (s.lenl.toNat - s.pcur.toNat) s.addr.toNat)

/-- `LENB = BLEN + 2` (R74). -/
def State.lenB (s : State) : Byte :=
  lenByte s.blen.toNat

/-- `ADDRHI` (R75). -/
def State.addrHi (s : State) : Byte :=
  hiByte s.addr

/-- `ADDRLO` (R75). -/
def State.addrLo (s : State) : Byte :=
  loByte s.addr

/-- `CK = neg8(CSUM)` (R77, R128). -/
def State.checkByte (s : State) : Byte :=
  neg8 s.csum

/-- `ADDR +16 BLEN` (R129). -/
def State.addrAfter (s : State) : Addr :=
  s.addr + s.blen.setWidth 16

/-- `PCUR + BLEN` (R129), on the natural numbers. -/
def State.pcurAfter (s : State) : Nat :=
  s.pcur.toNat + s.blen.toNat

end Sys2Proof.Machine
end

