-- ==== Sys2Proof/WellFormed.lean ====
section
/-! DEFINITION. Which operations are well formed. -/

namespace Sys2Proof

/-- `BASE + LEN <= 65536` on the natural numbers, without wrap (R9, R61, R162). -/
def fitsTarget (base : Addr) (len : Len) : Bool :=
  base.toNat + len.toNat ≤ Config.targetSpace

/-- `TRANSMIT` has the operand condition `BASE + LEN <= 65536` (R136). Every other operation takes every operand:
`START` with any `BASE` and `LEN` (R152), `SEND_BYTE` with any byte (R82). -/
def Instr.wellFormed : Instr → Bool
  | .transmit base len => fitsTarget base len
  | .sendBit1 | .sendBit0 | .sendByte _ _ | .preamble | .blkMark | .blkClr | .blkLen | .blkAddr | .blkData
  | .blkCk | .blkAdv | .block | .trailer | .start _ _ | .reset => true

end Sys2Proof
end

