-- ==== Sys2Proof/Machine/Ops.lean ====
section
/-! DEFINITION. The shared operations over the state: the payload memory's write, the steps of the three layers at the
abstract level (R11), `Load` of the clocked machine (R146), reset, loss of power, and the one exception (R162). -/

namespace Sys2Proof.Machine

/-! ### The payload memory -/

/-- The payload memory with byte `b` held at index `i`, in canonical form. The block never does this (R52); the host
does (R158). -/
def Memory.set (m : Memory) (i : Nat) (b : Byte) : Memory :=
  match m with
  | [] => [(i, b)]
  | (j, c) :: rest =>
    if i < j then (i, b) :: (j, c) :: rest
    else if i = j then (i, b) :: rest
    else (j, c) :: Memory.set rest i b

/-- The host places a payload byte (R158, R183). -/
def State.placeByte (s : State) (i : Addr) (b : Byte) : State :=
  { s with payload := s.payload.set i.toNat b }

/-! ### The Bit Transmitter at the abstract level -/

/-- `Drive(level, d)` (R17): the line takes the level and holds it for the duration, which `LTRACE` records. When the
duration has elapsed `TIMER` is at 1, and `HALF` says which half it was (R31, R107, log 3). -/
def State.drive (s : State) (level : Bool) (d : Dur) : State :=
  { s with line := level, half := !level, timer := 1, lTrace := s.lTrace ++ [⟨level, d⟩] }

/-- `SEND_BIT(v)` (R100, R101): high, then low, for one duration; then the bit is in `BITTRACE`. -/
def State.sendBit (s : State) (v : Bool) : State :=
  let t := (s.drive true (bitDur v)).drive false (bitDur v)
  { t with bitTrace := t.bitTrace ++ [v] }

/-! ### The Byte Framer at the abstract level -/

/-- Some logical bits, one after the other. -/
def State.sendBits (s : State) (bits : List Bool) : State :=
  bits.foldl State.sendBit s

/-- `SEND_BYTE(b, count)` (R111): the addition of R110, then the frame of ten bits, then the byte is in `BYTETRACE`.
`SHREG` holds the byte throughout, and `BITPOS` ends at 9 (R112, log 3). -/
def State.sendByte (s : State) (b : Byte) (count : Bool) : State :=
  let t := { s with csum := accumulate s.csum b count, shreg := b }.sendBits (frameBits b)
  { t with bitpos := 9, byteTrace := t.byteTrace ++ [b] }

/-- Some bytes, one after the other, all counted or all not. -/
def State.sendBytes (s : State) (bytes : List Byte) (count : Bool) : State :=
  bytes.foldl (fun t b => t.sendByte b count) s

/-! ### The Block Protocol Encoder at the abstract level -/

/-- `PHASE <- p`. -/
def State.enter (s : State) (p : Phase) : State :=
  { s with phase := p }

/-- `PREAMBLE` (R120). -/
def State.sendPreamble (s : State) : State :=
  s.sendBytes preambleBytes false

/-- `BLK_MARK` (R123). -/
def State.sendMark (s : State) : State :=
  s.sendBytes markBytes false

/-- `BLEN <- min(LENL - PCUR, 16 - ADDR[3:0])` (R131). -/
def State.sizeBlock (s : State) : State :=
  { s with blen := s.nextBlen }

/-- `BLK_CLR` (R124). -/
def State.clearSum (s : State) : State :=
  { s with csum := 0 }

/-- `BLK_LEN` (R125). -/
def State.sendLen (s : State) : State :=
  s.sendByte s.lenB true

/-- `BLK_ADDR` (R126). -/
def State.sendAddr (s : State) : State :=
  s.sendBytes [s.addrHi, s.addrLo] true

/-- The data bytes of the block in progress (R76). -/
def State.blockData (s : State) : List Byte :=
  (List.range s.blen.toNat).map s.dataByte

/-- `BLK_DATA` (R127). -/
def State.sendData (s : State) : State :=
  s.sendBytes s.blockData true

/-- `BLK_CK` (R128). -/
def State.sendCheck (s : State) : State :=
  s.sendByte s.checkByte false

/-- `BLK_ADV` (R129). DESIGN CHOICE (log 22): a `PCUR + BLEN` above 17 bits, which no run reaches, is taken to 17 bits. -/
def State.advance (s : State) : State :=
  { s with addr := s.addrAfter, pcur := BitVec.ofNat 17 s.pcurAfter }

/-- `BLOCK` (R130): the seven steps in their order. -/
def State.sendBlock (s : State) : State :=
  let s1 := (s.enter .blockStart).sendMark.sizeBlock.clearSum.enter .blockBody
  let s2 := s1.sendLen.sendAddr.sendData.enter .blockChecksum
  s2.sendCheck.advance

/-- `TRAILER` (R135). -/
def State.sendTrailer (s : State) : State :=
  s.sendBytes trailerBytes false

/-- `while PCUR < LENL: BLOCK` (R136), at most `fuel` blocks. -/
def State.sendBlocks (s : State) : (fuel : Nat) → State
  | 0 => s
  | fuel + 1 => if s.pcur.toNat < s.lenl.toNat then s.sendBlock.sendBlocks fuel else s

/-- The cursors at the beginning of a transfer (R136, R150). -/
def State.latch (s : State) (base : Addr) (len : Len) : State :=
  { s with addr := base, pcur := 0, lenl := len, phase := .preamble, bidx := 0 }

/-- `TRANSMIT` (R136). Every block takes at least one byte, so `LEN` blocks are enough (R145). -/
def State.transmit (s : State) (base : Addr) (len : Len) : State :=
  ((((s.latch base len).sendPreamble.sendBlocks len.toNat).enter .trailer).sendTrailer).enter .done

/-! ### Load, reset, loss of power -/

/-- The number of clock periods of a segment of bit `v`: `N(v)` (R107). -/
def bitPeriods (c : Config.Timing) (v : Bool) : Nat :=
  c.periods (bitDur v)

/-- `LINE <- 1; HALF <- 0; TIMER <- N(v)`: a bit begins (R107). -/
def State.beginBit (s : State) (c : Config.Timing) (v : Bool) : State :=
  { s with line := true, half := false, timer := bitPeriods c v }

/-- `Load(b, c)` (R146): a byte begins, with its start bit. -/
def State.load (s : State) (c : Config.Timing) (b : Byte) (count : Bool) : State :=
  { s with shreg := b, csum := accumulate s.csum b count, bitpos := 0 }.beginBit c (frameBit b 0)

/-- Every state element takes its reset value (R38, R151, R180). The payload source, the input schedule and the traces
are no state elements of the block and stay (R36, log 16). -/
def State.toReset (s : State) : State :=
  { State.reset with
    payload := s.payload, inputs := s.inputs, byteTrace := s.byteTrace, bitTrace := s.bitTrace, lTrace := s.lTrace
    powerLosses := s.powerLosses }

/-- The phase with a given code. The codes are the model's own (U15). -/
def Phase.ofCode (n : Nat) : Phase :=
  match n % 7 with
  | 0 => .idle
  | 1 => .preamble
  | 2 => .blockStart
  | 3 => .blockBody
  | 4 => .blockChecksum
  | 5 => .trailer
  | _ => .done

/-- Loss of power: no register keeps its value, each is unspecified until the next reset (R174, R182, log 15). -/
def State.losePower (s : State) : State :=
  let v := fun r => Config.powerOn r s.powerLosses
  { s with
    line := v 0 % 2 == 1, phase := Phase.ofCode (v 1), err := v 2 % 2 == 1, csum := BitVec.ofNat 8 (v 3)
    addr := BitVec.ofNat 16 (v 4), pcur := BitVec.ofNat 17 (v 5), lenl := BitVec.ofNat 17 (v 6)
    blen := BitVec.ofNat 5 (v 7), bidx := BitVec.ofNat 5 (v 8), shreg := BitVec.ofNat 8 (v 9)
    bitpos := BitVec.ofNat 4 (v 10), half := v 11 % 2 == 1, timer := v 12
    live := false, powerLosses := s.powerLosses + 1 }

/-! ### The exception -/

/-- Taking `CfgError` (R162, R166): `ERR <- 1; PHASE <- Idle`, and nothing else. There is no handler, no saved state
and no vector. -/
def State.takeCfgError (s : State) : State :=
  { s with err := true, phase := .idle }

/-- Leaving the error state, which an accepted START does (R167): `ERR <- 0`. -/
def State.leaveCfgError (s : State) : State :=
  { s with err := false }

/-- An accepted START (R150): the cursors are latched and the first preamble byte begins on this edge. -/
def State.acceptStart (s : State) (c : Config.Timing) (base : Addr) (len : Len) : State :=
  (s.leaveCfgError.latch base len).load c Config.preambleByte false

/-- The effect of START on an edge that samples it (R150, R153, R164): ignored while busy; otherwise `CfgError` is
tested first, and excludes acceptance. -/
def State.startEdge (s : State) (c : Config.Timing) (base : Addr) (len : Len) : State :=
  if s.busy then s
  else if fitsTarget base len then s.acceptStart c base len
  else s.takeCfgError

end Sys2Proof.Machine
end

