-- ==== Sys2Proof/Machine/BitTransmitter.lean ====
section
/-! DEFINITION. The operations of the Bit Transmitter (`spec/40_bit_transmitter.md`). They cannot fail (R104). -/

namespace Sys2Proof.Machine

/-- `SEND_BIT 1` (R100). -/
def execSendBit1 (s : State) : Host.Outcome State Fault Refusal :=
  .next (s.sendBit true)

/-- `SEND_BIT 0` (R101). -/
def execSendBit0 (s : State) : Host.Outcome State Fault Refusal :=
  .next (s.sendBit false)

end Sys2Proof.Machine
end

