-- ==== Sys2Proof/Machine/BlockEncoder.lean ====
section
/-! DEFINITION. The operations of the Block Protocol Encoder (`spec/42_block_encoder.md`). -/

namespace Sys2Proof.Machine

/-- `PREAMBLE` (R120). -/
def execPreamble (s : State) : Host.Outcome State Fault Refusal :=
  .next s.sendPreamble

/-- `BLK_MARK`, block step 1 (R123). -/
def execBlkMark (s : State) : Host.Outcome State Fault Refusal :=
  .next s.sendMark

/-- `BLK_CLR`, block step 2 (R124). -/
def execBlkClr (s : State) : Host.Outcome State Fault Refusal :=
  .next s.clearSum

/-- `BLK_LEN`, block step 3 (R125). -/
def execBlkLen (s : State) : Host.Outcome State Fault Refusal :=
  .next s.sendLen

/-- `BLK_ADDR`, block step 4 (R126). -/
def execBlkAddr (s : State) : Host.Outcome State Fault Refusal :=
  .next s.sendAddr

/-- `BLK_DATA`, block step 5 (R127). The payload space has the indices below `LENL` and no other; a slice that leaves
it does not arise (R131) and faults, naming the first index outside (log 8). -/
def execBlkData (s : State) : Host.Outcome State Fault Refusal :=
  if s.blen = 0 ∨ s.pcurAfter ≤ s.lenl.toNat then .next s.sendData
  else .fault (.payloadIndexOutOfRange (max s.pcur.toNat s.lenl.toNat))

/-- `BLK_CK`, block step 6 (R128). -/
def execBlkCk (s : State) : Host.Outcome State Fault Refusal :=
  .next s.sendCheck

/-- `BLK_ADV`, block step 7 (R129). -/
def execBlkAdv (s : State) : Host.Outcome State Fault Refusal :=
  .next s.advance

/-- `BLOCK` (R130), whose precondition is `PCUR < LENL`; without payload left it is not entered (R145, log 12). -/
def execBlock (s : State) : Host.Outcome State Fault Refusal :=
  if s.pcur.toNat < s.lenl.toNat then .next s.sendBlock else .refused .noPayloadLeft

/-- `TRAILER` (R135). -/
def execTrailer (s : State) : Host.Outcome State Fault Refusal :=
  .next s.sendTrailer

/-- `TRANSMIT` (R136), for `BASE + LEN <= 65536`; otherwise it is not begun (R136, U6, log 13). -/
def execTransmit (base : Addr) (len : Len) (s : State) : Host.Outcome State Fault Refusal :=
  if fitsTarget base len then .next (s.transmit base len) else .refused .transferDoesNotFit

end Sys2Proof.Machine
end

