-- ==== Sys2Proof/Machine/ByteFramer.lean ====
section
/-! DEFINITION. The operation of the Byte Framer (`spec/41_byte_framer.md`). It cannot fail (R114). -/

namespace Sys2Proof.Machine

/-- `SEND_BYTE b, count` (R111). -/
def execSendByte (b : Byte) (count : Bool) (s : State) : Host.Outcome State Fault Refusal :=
  .next (s.sendByte b count)

end Sys2Proof.Machine
end

