-- ==== Sys2Proof/Machine/HostInterface.lean ====
section
/-! DEFINITION. The host's two commands (`spec/43_host_interface.md`), each the effect of one clock edge. -/

namespace Sys2Proof.Machine

/-- `START` (R150): accepted or refused with `CfgError` (R162) in `Idle` and `Done`, ignored while busy (R153). -/
def execStart (base : Addr) (len : Len) (s : State) : Host.Outcome State Fault Refusal :=
  .next (s.startEdge Config.timing base len)

/-- `RESET` (R151). -/
def execReset (s : State) : Host.Outcome State Fault Refusal :=
  .next s.toReset

end Sys2Proof.Machine
end

