-- ==== Sys2Proof/Machine/Dispatch.lean ====
section
/-! DEFINITION. One arm per operation of the table. -/

namespace Sys2Proof.Machine

def exec (i : Instr) (s : State) : Host.Outcome State Fault Refusal :=
  match i with
  | .sendBit1 => Sys2Proof.Machine.execSendBit1 s
  | .sendBit0 => Sys2Proof.Machine.execSendBit0 s
  | .sendByte b count => Sys2Proof.Machine.execSendByte b count s
  | .preamble => Sys2Proof.Machine.execPreamble s
  | .blkMark => Sys2Proof.Machine.execBlkMark s
  | .blkClr => Sys2Proof.Machine.execBlkClr s
  | .blkLen => Sys2Proof.Machine.execBlkLen s
  | .blkAddr => Sys2Proof.Machine.execBlkAddr s
  | .blkData => Sys2Proof.Machine.execBlkData s
  | .blkCk => Sys2Proof.Machine.execBlkCk s
  | .blkAdv => Sys2Proof.Machine.execBlkAdv s
  | .block => Sys2Proof.Machine.execBlock s
  | .trailer => Sys2Proof.Machine.execTrailer s
  | .transmit base len => Sys2Proof.Machine.execTransmit base len s
  | .start base len => Sys2Proof.Machine.execStart base len s
  | .reset => Sys2Proof.Machine.execReset s

end Sys2Proof.Machine
end

