-- ==== Sys2Proof/Machine/Sequencer.lean ====
section
/-! DEFINITION. The clocked machine: the transition function `Next` (R141) and the step `Tick` (R146). -/

namespace Sys2Proof.Machine

/-- What `Next` decides: the updated state, and the byte it loads with its `count`, if it loads one (R141). -/
abbrev NextByte := State × Option (Byte × Bool)

/-- A row of R141 that loads a byte. -/
def loadNext (s : State) (b : Byte) (count : Bool) : Host.Outcome NextByte Fault Refusal :=
  .next (s, some (b, count))

/-- Entering a phase at its first byte: `PHASE <- p; BIDX <- 0`. -/
def State.enterFirst (s : State) (p : Phase) : State :=
  { s.enter p with bidx := 0 }

/-- `BIDX <- BIDX + 1`. DESIGN CHOICE (log 22): from 31, which no run reaches, it goes to 0. -/
def State.nextIndex (s : State) : State :=
  { s with bidx := s.bidx + 1 }

/-- The rows of R141 after the preamble and after a block: another block when payload is left, the trailer when none
is, no row when the cursor is past the end. `s` has its cursors already advanced. -/
def nextBlockOrTrailer (s : State) (cursor : Nat) : Host.Outcome NextByte Fault Refusal :=
  if cursor < s.lenl.toNat then loadNext (s.enterFirst .blockStart) Config.markS false
  else if cursor = s.lenl.toNat then loadNext (s.enterFirst .trailer) Config.markS false
  else .refused .unreachablePosition

/-- The row of R141 that loads a data byte: the byte at `P_ADDR`, which must be an index the payload space has (R50,
R155, log 8). -/
def nextData (p : Pins) (s : State) : Host.Outcome NextByte Fault Refusal :=
  if s.dataIndex (s.bidx.toNat - 2) < s.lenl.toNat then loadNext s.nextIndex (s.sampleData p) true
  else .fault (.payloadIndexOutOfRange (s.dataIndex (s.bidx.toNat - 2)))

/-- The rows of R141 for `BlockBody`. -/
def nextInBody (p : Pins) (s : State) : Host.Outcome NextByte Fault Refusal :=
  if s.bidx = 0 then loadNext s.nextIndex s.addrHi true
  else if s.bidx = 1 then loadNext s.nextIndex s.addrLo true
  else if s.bidx.toNat ≤ s.blen.toNat + 1 then nextData p s
  else if s.bidx.toNat = s.blen.toNat + 2 then loadNext (s.enterFirst .blockChecksum) s.checkByte false
  else .refused .unreachablePosition

/-- `Next` (R141): what follows when one byte has been completely sent. A position the table does not hold has no
meaning (D27, log 11). -/
def nextByte (p : Pins) (s : State) : Host.Outcome NextByte Fault Refusal :=
  match s.phase with
  | .preamble =>
    if s.bidx = 0 then loadNext s.nextIndex Config.preambleByte false
    else if s.bidx = 1 then nextBlockOrTrailer s s.pcur.toNat
    else .refused .unreachablePosition
  | .blockStart =>
    if s.bidx = 0 then loadNext s.nextIndex Config.markBlock false
    else if s.bidx = 1 then
      let t := s.sizeBlock.clearSum.enterFirst .blockBody
      loadNext t t.lenB true
    else .refused .unreachablePosition
  | .blockBody => nextInBody p s
  | .blockChecksum =>
    if s.bidx = 0 then nextBlockOrTrailer s.advance s.pcurAfter
    else .refused .unreachablePosition
  | .trailer =>
    if s.bidx = 0 then loadNext s.nextIndex Config.markEnd false
    else if s.bidx = 1 then .next (s.enterFirst .done, none)
    else .refused .unreachablePosition
  | .idle | .done => .refused .unreachablePosition

/-- The logical bit in progress: `framebit(SHREG, BITPOS)` (R112). -/
def State.currentBit (s : State) : Bool :=
  frameBit s.shreg s.bitpos.toNat

/-- The high half is over: the line falls for the low half (R107). The segment that has ended is in `LTRACE` (log 14). -/
def State.endHighHalf (s : State) (c : Config.Timing) : State :=
  { s with
    line := false, half := true, timer := bitPeriods c s.currentBit
    lTrace := s.lTrace ++ [⟨true, bitDur s.currentBit⟩] }

/-- The low half, and with it the bit, is over: the ghost traces record both (R100, R101, log 14). -/
def State.recordBit (s : State) : State :=
  { s with
    lTrace := s.lTrace ++ [⟨false, bitDur s.currentBit⟩], bitTrace := s.bitTrace ++ [s.currentBit] }

/-- The byte is over: `BYTETRACE` records it (R111, log 14). -/
def State.recordByte (s : State) : State :=
  { s with byteTrace := s.byteTrace ++ [s.shreg] }

/-- `BITPOS <- BITPOS + 1` and the next bit of the frame begins (R112, R146). -/
def State.nextFrameBit (s : State) (c : Config.Timing) : State :=
  let t := { s with bitpos := s.bitpos + 1 }
  t.beginBit c t.currentBit

/-- The edge on which a byte is over: `Next`, then `Load` if it loads a byte (R146). -/
def byteOver (c : Config.Timing) (p : Pins) (s : State) : Host.Outcome State Fault Refusal :=
  match nextByte p s with
  | .next (t, some (b, count)) => .next (t.load c b count)
  | .next (t, none) => .next t
  | .fault r => .fault r
  | .refused r => .refused r

/-- `Tick` while busy (R146). A `BITPOS` above 9 is no position of a frame (R30, U14, log 11). -/
def busyTick (c : Config.Timing) (p : Pins) (s : State) : Host.Outcome State Fault Refusal :=
  if 9 < s.bitpos.toNat then .refused .unreachablePosition
  else if 1 < s.timer then .next { s with timer := s.timer - 1 }
  else if s.half = false then .next (s.endHighHalf c)
  else if s.bitpos.toNat < 9 then .next (s.recordBit.nextFrameBit c)
  else byteOver c p s.recordBit.recordByte

/-- `Tick`: one rising clock edge (R146), with the priorities of R164. -/
def tick (c : Config.Timing) (p : Pins) (s : State) : Host.Outcome State Fault Refusal :=
  if p.rst then .next s.toReset
  else if s.busy then busyTick c p s
  else if p.start then .next (s.startEdge c p.base p.len)
  else .next s

/-- Some clock edges, one after the other. -/
def ticks (c : Config.Timing) : List Pins → State → Host.Outcome State Fault Refusal
  | [], s => .next s
  | p :: ps, s =>
    match tick c p s with
    | .next t => ticks c ps t
    | .fault r => .fault r
    | .refused r => .refused r

end Sys2Proof.Machine
end

