-- ==== Sys2Proof/Machine/Step.lean ====
section
/-! DEFINITION. One step of the machine: the next thing the outside does (log 6). -/

namespace Sys2Proof.Machine

/-- The call of an operation by its word (log 1): what decodes to a well-formed operation is run by `exec`. Between a
loss of power and the next reset only `RESET` is (R182). -/
def callStep (w : OpWord) (s : State) : Host.Outcome State Fault Refusal :=
  match decode w with
  | .ok i =>
    if s.live = false ∧ i ≠ .reset then .refused .beforeFirstReset
    else if i.wellFormed then exec i s
    else .refused .illFormed
  | .error e => .refused (.undecodable e)

/-- A clock edge (R146). Between a loss of power and the next reset only an edge with `RST = 1` has a meaning
(R182). -/
def edgeStep (p : Pins) (s : State) : Host.Outcome State Fault Refusal :=
  if s.live = false ∧ p.rst = false then .refused .beforeFirstReset else tick Config.timing p s

/-- The host places a payload byte (R158). It must not do so during a transfer; if it does, what is sent is what the
payload holds when the byte's frame begins (R186, log 9). -/
def placeStep (i : Addr) (b : Byte) (s : State) : Host.Outcome State Fault Refusal :=
  .next (s.placeByte i b)

/-- What one stimulus does. -/
def stimulate (x : Stimulus) (s : State) : Host.Outcome State Fault Refusal :=
  match x with
  | .edge p => edgeStep p s
  | .place i b => placeStep i b s
  | .powerLoss => .next s.losePower
  | .call w => callStep w s

/-- `s` with another schedule. -/
def State.withInputs (s : State) (xs : List Stimulus) : State :=
  { s with inputs := xs }

/-- One step: the first stimulus of the schedule; with an empty schedule, a clock edge on which the host asks for
nothing (log 6). -/
def step (s : State) : Host.Outcome State Fault Refusal :=
  match s.inputs with
  | [] => edgeStep .quiet s
  | x :: rest => stimulate x (s.withInputs rest)

/-- The call of the operation with table word `w` of `nbits` bits is the next thing that happens to the block, which
has been reset since power was applied (log 20). -/
def State.withFetchWord (s : State) (nbits w : Nat) : State :=
  { s with live := true, inputs := .call (BitVec.ofNat 48 (tableWord nbits w)) :: s.inputs }

end Sys2Proof.Machine
end

