-- ==== Sys2Proof/Machine/Durations.lean ====
section
/-! DEFINITION. How long things last and how many there are (R89, R108, R116, R194), as functions of the two segment
durations: clock periods `N_SHORT`, `N_LONG`, or any other unit of time. -/

namespace Sys2Proof.Machine

/-- `ones(b)`: the number of 1 bits of a byte (R116). -/
def ones (b : Byte) : Nat :=
  ((List.range 8).filter b.getLsbD).length

/-- `zeros(b) = 8 - ones(b)` (R116). -/
def zeros (b : Byte) : Nat :=
  8 - ones b

/-- The duration of one bit: two segments (R108). -/
def bitTime (tShort tLong : Nat) (v : Bool) : Nat :=
  if v then 2 * tShort else 2 * tLong

/-- The duration of the frame of a byte (R116). -/
def frameTime (tShort tLong : Nat) (b : Byte) : Nat :=
  2 * tLong * (1 + zeros b) + 2 * tShort * (1 + ones b)

/-- The duration of a byte list: the sum of its frame durations (R147, R194). -/
def bytesTime (tShort tLong : Nat) (bytes : List Byte) : Nat :=
  (bytes.map (frameTime tShort tLong)).sum

/-- The duration of a segment. -/
def segmentTime (tShort tLong : Nat) (g : Segment) : Nat :=
  match g.dur with
  | .short => tShort
  | .long => tLong

/-- The total duration of a segment list. -/
def segmentsTime (tShort tLong : Nat) (segs : List Segment) : Nat :=
  (segs.map (segmentTime tShort tLong)).sum

/-- The level of the line in each clock period of a segment list (R11, R147). -/
def levels (c : Config.Timing) (segs : List Segment) : List Bool :=
  segs.flatMap fun g => List.replicate (c.periods g.dur) g.high

/-- The number of blocks of a transfer: 0 when `LEN = 0`, otherwise `ceil((BASE[3:0] + LEN) / 16)` (R89). -/
def blockCount (base len : Nat) : Nat :=
  if len = 0 then 0 else (base % Config.alignUnit + len + (Config.alignUnit - 1)) / Config.alignUnit

/-- The number of bytes of a stream (R89). -/
def streamLength (base len : Nat) : Nat :=
  4 + len + 6 * blockCount base len

end Sys2Proof.Machine
end

