-- ==== Sys2Proof/Safety.lean ====
section
/-! DEFINITION. The terms claims use: what a run shows (R12), which schedules are the hardware's, and the ranges that
hold in every reachable state (R40). -/

namespace Sys2Proof.Machine

/-! ### What sending bytes shows, and what it leaves alone -/

/-- `s` with some bytes, their bits and their segments at the ends of the traces and the line low (R12, R102). -/
def State.emitted (s : State) (bytes : List Byte) : State :=
  { s with
    line := false, byteTrace := s.byteTrace ++ bytes, bitTrace := s.bitTrace ++ wireBits bytes
    lTrace := s.lTrace ++ wireSegments bytes }

/-- `t` is `s` but for the registers of the two lower layers: `SHREG`, `BITPOS`, `HALF`, `TIMER` (R37, R107, R112). -/
def State.SameButLowerLayers (s t : State) : Prop :=
  t = { s with shreg := t.shreg, bitpos := t.bitpos, half := t.half, timer := t.timer }

/-- The operation answers a next state that is `s` with the bytes emitted, but for the lower layers' registers. -/
def Sends (i : Instr) (s u : State) (bytes : List Byte) : Prop :=
  ∃ t, exec i s = .next t ∧ State.SameButLowerLayers (u.emitted bytes) t

/-! ### Runs -/

/-- `LINE` after each of the next `k` steps, one entry per clock period when the steps are clock edges (R12). A run
that stops has a shorter list. -/
def waveform : (k : Nat) → State → List Bool
  | 0, _ => []
  | k + 1, s =>
    match step s with
    | .next t => t.line :: waveform k t
    | .fault _ | .refused _ => []

/-- An edge of a conforming run: no reset, and the payload source answers in time (R158). `START`, `BASE` and `LEN` may
be anything. -/
def Pins.Conforming (p : Pins) : Prop :=
  p.rst = false ∧ p.pData = none

/-- Everything left in the schedule is a clock edge without reset. -/
def Undisturbed (xs : List Stimulus) : Prop :=
  ∀ x ∈ xs, ∃ p : Pins, x = .edge p ∧ p.rst = false

/-- A schedule of the hardware has no abstract-level calls in it (R159, log 1). -/
def HardwareOnly (xs : List Stimulus) : Prop :=
  ∀ x ∈ xs, ∀ w, x ≠ .call w

/-- The clock periods from the START edge to `Done` (R147). -/
def transferPeriods (s : State) (base : Addr) (len : Len) : Nat :=
  bytesTime Config.timing.nShort Config.timing.nLong (stream base.toNat len.toNat s.payloadAt)

/-- `s` stands at the instant at which one byte has been completely sent: the next edge applies `Next` (R141). -/
structure State.AtByteEnd (s : State) : Prop where
  live : s.live = true
  bitpos : s.bitpos = 9
  half : s.half = true
  timer : s.timer ≤ 1

/-- What the ghost traces record on that edge (R100, R101, R111). -/
def State.recorded (s : State) : State :=
  s.recordBit.recordByte

/-! ### The ranges of R40 -/

/-- The block in progress: `1 <= BLEN <= 16`, `BLEN <= LENL - PCUR` and `ADDR[3:0] + BLEN <= 16` (R40). -/
structure State.BlockSized (s : State) : Prop where
  blen_pos : 1 ≤ s.blen.toNat
  blen_le : s.blen.toNat ≤ 16
  within_payload : s.pcur.toNat + s.blen.toNat ≤ s.lenl.toNat
  aligned : s.addr.toNat % 16 + s.blen.toNat ≤ 16

/-- What holds of `BIDX` and of the cursors in each phase (R28, R140). -/
def State.PhaseRange (s : State) : Prop :=
  match s.phase with
  | .idle | .done => s.bidx = 0
  | .preamble => s.bidx.toNat ≤ 1 ∧ s.pcur = 0
  | .blockStart => s.bidx.toNat ≤ 1 ∧ s.pcur.toNat < s.lenl.toNat
  | .blockBody => s.bidx.toNat ≤ s.blen.toNat + 2 ∧ s.BlockSized
  | .blockChecksum => s.bidx = 0 ∧ s.BlockSized
  | .trailer => s.bidx.toNat ≤ 1 ∧ s.pcur = s.lenl

/-- The ranges that hold in every reachable state (R40), with the address rule of R25, the status rule of R157 and the
index ranges of R28. -/
structure State.Ranges (s : State) : Prop where
  pcur_le : s.pcur.toNat ≤ s.lenl.toNat
  lenl_le : s.lenl.toNat ≤ 65536
  addressed : s.phase ≠ .idle →
    ∃ base : Addr, base.toNat + s.lenl.toNat ≤ 65536 ∧ s.addr.toNat = (base.toNat + s.pcur.toNat) % 65536
  in_phase : s.PhaseRange
  bitpos_le : s.bitpos.toNat ≤ 9
  timer_range : s.busy = true → 1 ≤ s.timer ∧ s.timer ≤ Config.timing.nLong
  line_busy : s.busy = true → s.line = !s.half
  line_quiet : s.busy = false → s.line = false
  err_idle : s.err = true → s.phase = .idle

/-- The invariant of a run of the hardware: no calls in the schedule, and the ranges of R40 hold unless power was lost
and no reset has come yet (R182). -/
def State.Inv (s : State) : Prop :=
  HardwareOnly s.inputs ∧ (s.live = true → s.Ranges)

/-! ### The transitions of R142 -/

/-- The phase changes a clock edge without reset can make (R141, R142, R150, R162). -/
def phaseStep : Phase → Phase → Bool
  | .idle, .preamble | .done, .preamble | .done, .idle => true
  | .preamble, .blockStart | .preamble, .trailer | .blockStart, .blockBody | .blockBody, .blockChecksum => true
  | .blockChecksum, .blockStart | .blockChecksum, .trailer | .trailer, .done => true
  | p, q => p == q

end Sys2Proof.Machine
end

