-- ==== Sys2Proof/Certificates/Slice0/Obligations.lean ====
section
/-! DEFINITION. The statements for the provers, in the order of OBLIGATIONS.json. -/

open Sys2Proof Sys2Proof.Machine

/-! ### Reset, stepping, the operation word -/

/-- R38: every state element after reset. -/
def Obligations.ResetStateHoldsTableValues : Prop :=
  let s := State.reset
  s.line = false ∧ s.phase = .idle ∧ s.err = false ∧ s.csum = 0 ∧ s.addr = 0 ∧ s.pcur = 0 ∧ s.lenl = 0 ∧ s.blen = 0 ∧
    s.bidx = 0 ∧ s.shreg = 0 ∧ s.bitpos = 0 ∧ s.half = false ∧ s.timer = 0 ∧ s.busy = false ∧ s.done = false

/-- The model's own fetch (logs 1, 2, 20): a step whose next stimulus is the call of a well-formed operation is `exec`
of it, the call taken from the schedule. -/
def Obligations.StepRunsCalledOperation : Prop :=
  ∀ (s : State) (w : OpWord) (i : Instr) (rest : List Stimulus),
    s.live = true → s.inputs = .call w :: rest → decode w = .ok i → i.wellFormed = true →
      step s = exec i (s.withInputs rest)

/-- Logs 1, 2, 13, the model's choice: a called word that is no operation, and a called operation that is not well formed,
are refused. -/
def Obligations.CallsWithoutMeaningAreRefused : Prop :=
  ∀ (s : State) (w : OpWord) (rest : List Stimulus), s.inputs = .call w :: rest →
    (∀ e, decode w = .error e → step s = .refused (.undecodable e)) ∧
    (∀ i, decode w = .ok i → i.wellFormed = false → s.live = true → step s = .refused .illFormed)

/-- R164: reset wins; then, in `Idle` or `Done`, START is acted on, and `CfgError` excludes acceptance; then, while busy,
START is ignored and the transfer's own step is taken. -/
def Obligations.EventsOnOneEdgeHavePriority : Prop :=
  ∀ (s : State) (p : Pins) (rest : List Stimulus), s.live = true → s.inputs = .edge p :: rest →
    let u := s.withInputs rest
    (p.rst = true → step s = exec .reset u) ∧
    (p.rst = false → s.busy = false → p.start = true → p.base.toNat + p.len.toNat ≤ 65536 →
      step s = exec (.start p.base p.len) u ∧ ∃ t, step s = .next t ∧ t.busy = true ∧ t.err = false) ∧
    (p.rst = false → s.busy = false → p.start = true → 65536 < p.base.toNat + p.len.toNat →
      step s = exec (.start p.base p.len) u ∧ step s = .next { u with err := true, phase := .idle }) ∧
    (p.rst = false → s.busy = false → p.start = false → step s = .next u) ∧
    (p.rst = false → s.busy = true → step s = busyTick Config.timing p u ∧
      ∀ start base len,
        step (s.withInputs (.edge { p with start := start, base := base, len := len } :: rest)) = step s)

/-- Log 2: an operation word written out by hand decodes to its operation: the frame of 0x53 counted, the wire bits of the
preamble, of the block marker and of the trailer in time order, and a START with `BASE` and `LEN`. -/
def Obligations.WrittenWordsDecode : Prop :=
  decode 0b11010100110_00000011 = .ok (.sendByte 0x53 true) ∧
  decode 0b11111111101111111110_00000100 = .ok .preamble ∧
  decode 0b10011000101010100110_00000101 = .ok .blkMark ∧
  decode 0b10100101001010100110_00001101 = .ok .trailer ∧
  decode 0b01_00000001 = .ok .sendBit1 ∧
  decode 0x14110080F = .ok (.start 0x1008 0x141) ∧
  decode 0x10 = .ok .reset ∧
  decode 0 = .error .unknownSelector

/-- Log 2: decoding the word of a well-formed operation gives it back, with every operand. -/
def Obligations.DecodeOfEncodeIsTheOperation : Prop :=
  ∀ i : Instr, i.wellFormed = true → decode (encode i) = .ok i

/-- Log 2: a word that decodes is the word of the operation it decodes to: no bit is ignored. -/
def Obligations.EncodeOfDecodeIsTheWord : Prop :=
  ∀ (w : OpWord) (i : Instr), decode w = .ok i → encode i = w

/-! ### Bit Transmitter and Byte Framer -/

/-- R100, R101: `SEND_BIT` drives high and then low for one duration, short for 1 and long for 0, and leaves everything but
`LINE`, `HALF`, `TIMER` and the traces alone. -/
def Obligations.SendBitDrivesOnePulsePair : Prop :=
  ∀ s : State,
    (∃ h n, exec .sendBit1 s = .next { s with
      line := false, half := h, timer := n, bitTrace := s.bitTrace ++ [true]
      lTrace := s.lTrace ++ [⟨true, .short⟩, ⟨false, .short⟩] }) ∧
    (∃ h n, exec .sendBit0 s = .next { s with
      line := false, half := h, timer := n, bitTrace := s.bitTrace ++ [false]
      lTrace := s.lTrace ++ [⟨true, .long⟩, ⟨false, .long⟩] })

/-- R70: pulse pairs decode to the bits they were made from. -/
def Obligations.PulsePairsDecode : Prop :=
  ∀ bits : List Bool, decodePulses (bits.flatMap pulse) = .ok bits

/-- R110, R111: `SEND_BYTE` adds a counted byte into `CSUM` modulo 256, and sends start bit 0, the eight data bits least
significant first, and stop bit 1. -/
def Obligations.SendByteAddsAndSendsFrame : Prop :=
  ∀ (s : State) (b : Byte) (count : Bool), ∃ t,
    exec (.sendByte b count) s = .next t ∧
    let sum := if count then BitVec.ofNat 8 ((s.csum.toNat + b.toNat) % 256) else s.csum
    let bits := [false, b.getLsbD 0, b.getLsbD 1, b.getLsbD 2, b.getLsbD 3, b.getLsbD 4, b.getLsbD 5, b.getLsbD 6,
      b.getLsbD 7, true]
    State.SameButLowerLayers
      { s with
        csum := sum, line := false, byteTrace := s.byteTrace ++ [b], bitTrace := s.bitTrace ++ bits
        lTrace := s.lTrace ++ bits.flatMap pulse } t

/-- R115: the frame that `SEND_BYTE` sends has ten bits, the first 0 and the last 1, and decodes to its byte; two different
bytes have different frames. -/
def Obligations.SentFrameDecodesToItsByte : Prop :=
  (∀ (s : State) (b : Byte) (count : Bool), ∃ t f,
    exec (.sendByte b count) s = .next t ∧ t.bitTrace = s.bitTrace ++ f ∧ f.length = 10 ∧ f.head? = some false ∧
      f.getLast? = some true ∧ decodeFrame f = .ok (b, [])) ∧
  ∀ b b' : Byte, b ≠ b' → frameBits b ≠ frameBits b'

/-- R88, R73: a run of frames decodes to the bytes it was made from. -/
def Obligations.FramesDecode : Prop :=
  ∀ bytes : List Byte, decodeFrames (wireBits bytes) = .ok bytes

/-- R116, which the spec derives from R108 and R111: the frame of `b` lasts `2 * T_LONG * (1 + zeros(b)) + 2 * T_SHORT * (1 + ones(b))`. -/
def Obligations.FrameLastsAsItsBitsSay : Prop :=
  ∀ (tShort tLong : Nat) (b : Byte),
    zeros b = 8 - ones b ∧
    segmentsTime tShort tLong (wireSegments [b]) = 2 * tLong * (1 + zeros b) + 2 * tShort * (1 + ones b)

/-! ### Block Protocol Encoder: single operations -/

/-- R120, R123, R135: `PREAMBLE` sends `FF FF`, `BLK_MARK` sends `53 31`, `TRAILER` sends `53 4A`, none of them counted. -/
def Obligations.ConstantBytesAreSentUncounted : Prop :=
  ∀ s : State, Sends .preamble s s [0xFF, 0xFF] ∧ Sends .blkMark s s [0x53, 0x31] ∧ Sends .trailer s s [0x53, 0x4A]

/-- R124: `BLK_CLR` zeroes `CSUM` and does nothing else. -/
def Obligations.BlkClrZeroesChecksum : Prop :=
  ∀ s : State, exec .blkClr s = .next { s with csum := 0 }

/-- R125: `BLK_LEN` sends `BLEN + 2`, counted. -/
def Obligations.BlkLenSendsLengthPlusTwo : Prop :=
  ∀ s : State,
    let b : Byte := BitVec.ofNat 8 (s.blen.toNat + 2)
    Sends .blkLen s { s with csum := s.csum + b } [b]

/-- R126: `BLK_ADDR` sends the high byte of `ADDR`, then the low byte, both counted. -/
def Obligations.BlkAddrSendsHighThenLow : Prop :=
  ∀ s : State,
    let hi : Byte := BitVec.ofNat 8 (s.addr.toNat / 256)
    let lo : Byte := BitVec.ofNat 8 (s.addr.toNat % 256)
    Sends .blkAddr s { s with csum := s.csum + hi + lo } [hi, lo]

/-- R127: `BLK_DATA` sends `PAYLOAD[PCUR]` to `PAYLOAD[PCUR + BLEN - 1]` in order, all counted. -/
def Obligations.BlkDataSendsTheSlice : Prop :=
  ∀ s : State,
    (s.blen = 0 → exec .blkData s = .next s) ∧
    (1 ≤ s.blen.toNat → s.pcur.toNat + s.blen.toNat ≤ s.lenl.toNat →
      let data := (List.range s.blen.toNat).map fun k => s.payloadAt (s.pcur.toNat + k)
      Sends .blkData s { s with csum := s.csum + data.foldl (· + ·) 0 } data)

/-- Log 8, the model's choice: a slice that leaves the payload space faults at the first index outside. -/
def Obligations.BlkDataOutsidePayloadFaults : Prop :=
  ∀ s : State, s.lenl.toNat < s.pcur.toNat + s.blen.toNat → 1 ≤ s.blen.toNat →
    ∃ i, exec .blkData s = .fault (.payloadIndexOutOfRange i) ∧ s.lenl.toNat ≤ i ∧ s.pcur.toNat ≤ i ∧
      i < s.pcur.toNat + s.blen.toNat

/-- R128: `BLK_CK` sends `neg8(CSUM)`, uncounted. -/
def Obligations.BlkCkSendsNegatedSum : Prop :=
  ∀ s : State, Sends .blkCk s s [BitVec.ofNat 8 ((256 - s.csum.toNat) % 256)]

/-- R129: `BLK_ADV` advances `ADDR` modulo 65536 and `PCUR` by `BLEN`. That a sum above 17 bits, which no run reaches, is
taken to the 17 bits of `PCUR` is the model's choice (log 22). -/
def Obligations.BlkAdvAdvancesBothCursors : Prop :=
  ∀ s : State, exec .blkAdv s = .next { s with
    addr := BitVec.ofNat 16 ((s.addr.toNat + s.blen.toNat) % 65536)
    pcur := BitVec.ofNat 17 (s.pcur.toNat + s.blen.toNat) }

/-! ### Blocks and the split -/

/-- R131, R133: the length of a block, its range, and its alignment. -/
def Obligations.BlockIsSizedByThePolicy : Prop :=
  ∀ s : State, s.pcur.toNat < s.lenl.toNat → ∃ t,
    exec .block s = .next t ∧ t.blen.toNat = min (s.lenl.toNat - s.pcur.toNat) (16 - s.addr.toNat % 16) ∧
      1 ≤ t.blen.toNat ∧ t.blen.toNat ≤ 16 ∧ s.addr.toNat % 16 + t.blen.toNat ≤ 16

/-- R130: `BLOCK` performs its seven steps: one packet goes out, `CSUM` holds the sum of its counted bytes, `ADDR` and
`PCUR` advance by `BLEN`. -/
def Obligations.BlockSendsOnePacketAndAdvances : Prop :=
  ∀ s : State, s.pcur.toNat < s.lenl.toNat → ∃ t,
    exec .block s = .next t ∧
    let n := min (s.lenl.toNat - s.pcur.toNat) (16 - s.addr.toNat % 16)
    let data := (List.range n).map fun k => s.payloadAt (s.pcur.toNat + k)
    let counted := [BitVec.ofNat 8 (n + 2), BitVec.ofNat 8 (s.addr.toNat / 256), BitVec.ofNat 8 (s.addr.toNat % 256)] ++ data
    let sum : Byte := counted.foldl (· + ·) 0
    State.SameButLowerLayers
      ({ s with
        phase := .blockChecksum, blen := BitVec.ofNat 5 n, csum := sum
        addr := BitVec.ofNat 16 ((s.addr.toNat + n) % 65536), pcur := BitVec.ofNat 17 (s.pcur.toNat + n) }.emitted
          ([0x53, 0x31] ++ counted ++ [BitVec.ofNat 8 ((256 - sum.toNat) % 256)])) t

/-- Log 12, the model's choice: without payload left `BLOCK` is not entered. -/
def Obligations.BlockNeedsPayloadLeft : Prop :=
  ∀ s : State, s.lenl.toNat ≤ s.pcur.toNat → exec .block s = .refused .noPayloadLeft

/-- R134: after its two markers, the bytes of every emitted block sum to 0 modulo 256. -/
def Obligations.EmittedBlockSumsToZero : Prop :=
  ∀ s : State, s.pcur.toNat < s.lenl.toNat → ∃ t body,
    exec .block s = .next t ∧ t.byteTrace = s.byteTrace ++ [0x53, 0x31] ++ body ∧ body.length = t.blen.toNat + 4 ∧
      (body.map BitVec.toNat).sum % 256 = 0

/-- R72, R79: a packet has `n + 6` bytes and decodes to its address and its data, whatever follows it. -/
def Obligations.BlockPacketDecodes : Prop :=
  ∀ (a : Addr) (d rest : List Byte), 1 ≤ d.length → d.length ≤ 16 →
    (blockBytes a d).length = d.length + 6 ∧ decodeBlock (blockBytes a d ++ rest) = .ok ((a, d), rest)

/-- R133, and R132, which the spec derives from R129 and R131: only the first block can start off a multiple of 16, every block but the last ends one below a multiple of
16, a block that is neither first nor last has 16 bytes, and none crosses a multiple of 16. -/
def Obligations.SplitHasTheStatedShape : Prop :=
  ∀ (base len k : Nat) (sl : Slice), (split base len)[k]? = some sl →
    1 ≤ sl.len ∧ sl.addr % 16 + sl.len ≤ 16 ∧
    (k = 0 → sl.addr = base) ∧ (0 < k → sl.addr % 16 = 0) ∧
    (k + 1 < (split base len).length → (sl.addr + sl.len) % 16 = 0) ∧
    (0 < k → k + 1 < (split base len).length → sl.len = 16)

/-- R89, which the spec derives from R73 and R131: the number of blocks, bytes, logical bits and line segments of a transfer, and the length of its first block. -/
def Obligations.StreamHasTheStatedCounts : Prop :=
  ∀ (base len : Nat) (payload : Nat → Byte),
    let m := if len = 0 then 0 else (base % 16 + len + 15) / 16
    let bytes := stream base len payload
    (split base len).length = m ∧ bytes.length = 4 + len + 6 * m ∧ (wireBits bytes).length = 10 * bytes.length ∧
      (wireSegments bytes).length = 20 * bytes.length ∧
      (0 < len → (split base len).head?.map Slice.len = some (min len (16 - base % 16)))

/-- R138, R143: the blocks a stream carries hold the whole payload in order, and the address of each is the base plus the
bytes before it. -/
def Obligations.StreamCarriesThePayload : Prop :=
  ∀ (base len : Nat) (payload : Nat → Byte), base + len ≤ 65536 → ∃ blks,
    decodeStream (stream base len payload) = .ok blks ∧
    blks.flatMap Prod.snd = (List.range len).map payload ∧
    ∀ (k : Nat) (blk : Addr × List Byte), blks[k]? = some blk →
      1 ≤ blk.2.length ∧ blk.1.toNat = base + ((blks.take k).flatMap Prod.snd).length

/-! ### The whole transfer -/

/-- R136: `TRANSMIT` sends the stream that the pure function gives, and ends in `Done` with both cursors at the end.
`BIDX = 0` is its value in `Done` (R28, R140, log 4). `CSUM` and `BLEN`, stale there (R39, U4), and the registers of the
two lower layers are left open. -/
def Obligations.TransmitSendsTheStream : Prop :=
  ∀ (s : State) (base : Addr) (len : Len), base.toNat + len.toNat ≤ 65536 → ∃ t,
    exec (.transmit base len) s = .next t ∧
    State.SameButLowerLayers
      ({ s with
        phase := .done, bidx := 0, addr := BitVec.ofNat 16 ((base.toNat + len.toNat) % 65536), pcur := len, lenl := len
        csum := t.csum, blen := t.blen }.emitted (stream base.toNat len.toNat s.payloadAt)) t

/-- R137: an empty payload sends `FF FF 53 4A` and leaves `CSUM` untouched. `BIDX = 0` is its value in `Done` (R28, R140,
log 4). -/
def Obligations.EmptyTransferSendsPreambleAndTrailer : Prop :=
  ∀ (s : State) (base : Addr),
    Sends (.transmit base 0) s { s with phase := .done, bidx := 0, addr := base, pcur := 0, lenl := 0 }
      [0xFF, 0xFF, 0x53, 0x4A]

/-- Log 13, the model's choice: a transfer that leaves the target address space is not begun. -/
def Obligations.TransmitNeedsRoom : Prop :=
  ∀ (s : State) (base : Addr) (len : Len), 65536 < base.toNat + len.toNat →
    exec (.transmit base len) s = .refused .transferDoesNotFit

/-- R139: the bytes, bits and segments of a transfer are a function of `BASE`, `LEN` and `PAYLOAD` alone. -/
def Obligations.TransferDependsOnItsInputsAlone : Prop :=
  ∀ (s s' : State) (base : Addr) (len : Len), base.toNat + len.toNat ≤ 65536 →
    (∀ i, i < len.toNat → s.payloadAt i = s'.payloadAt i) → ∃ t t' bytes bits segs,
      exec (.transmit base len) s = .next t ∧ exec (.transmit base len) s' = .next t' ∧
      t.byteTrace = s.byteTrace ++ bytes ∧ t'.byteTrace = s'.byteTrace ++ bytes ∧
      t.bitTrace = s.bitTrace ++ bits ∧ t'.bitTrace = s'.bitTrace ++ bits ∧
      t.lTrace = s.lTrace ++ segs ∧ t'.lTrace = s'.lTrace ++ segs

/-- R70 to R73, R88, R79, R138: the segments of a whole transfer decode, layer by layer, to blocks that hold the payload. -/
def Obligations.TransmittedSegmentsDecodeToPayload : Prop :=
  ∀ (s : State) (base : Addr) (len : Len), base.toNat + len.toNat ≤ 65536 → ∃ t segs bits bytes blks,
    exec (.transmit base len) s = .next t ∧ t.lTrace = s.lTrace ++ segs ∧ decodePulses segs = .ok bits ∧
      decodeFrames bits = .ok bytes ∧ decodeStream bytes = .ok blks ∧
      blks.flatMap Prod.snd = (List.range len.toNat).map s.payloadAt

/-! ### Host commands and the exception -/

/-- R150: an accepted START latches the cursors and begins the first preamble byte on that edge. -/
def Obligations.AcceptedStartBeginsPreamble : Prop :=
  ∀ (s : State) (base : Addr) (len : Len), s.busy = false → base.toNat + len.toNat ≤ 65536 →
    exec (.start base len) s = .next { s with
      err := false, addr := base, pcur := 0, lenl := len, phase := .preamble, bidx := 0, shreg := 0xFF, bitpos := 0
      line := true, half := false, timer := Config.timing.nLong }

/-- R162, R166: a START with `BASE + LEN > 65536` sets `ERR`, goes to `Idle` and changes nothing else. -/
def Obligations.RefusedStartOnlySetsErr : Prop :=
  ∀ (s : State) (base : Addr) (len : Len), s.busy = false → 65536 < base.toNat + len.toNat →
    exec (.start base len) s = .next { s with err := true, phase := .idle }

/-- R153: START while busy has no effect. -/
def Obligations.StartWhileBusyIsIgnored : Prop :=
  ∀ (s : State) (base : Addr) (len : Len), s.busy = true → exec (.start base len) s = .next s

/-- R151: RESET gives every state element its reset value from any state; an edge with `RST = 1` is a RESET, whatever else
is sampled on it and whatever is in progress. That the payload, the schedule and the traces are kept is the model's choice
(log 16), and so are the model's own fields: `live` is set and the count of power losses is kept (log 15). -/
def Obligations.ResetWorksFromEveryState : Prop :=
  (∀ s : State, exec .reset s = .next { State.reset with
    payload := s.payload, inputs := s.inputs, byteTrace := s.byteTrace, bitTrace := s.bitTrace, lTrace := s.lTrace
    powerLosses := s.powerLosses }) ∧
  ∀ (s : State) (p : Pins) (rest : List Stimulus), s.inputs = .edge p :: rest → p.rst = true →
    step s = exec .reset (s.withInputs rest)

/-- R166: after a refused START no byte, bit or segment is ever produced: only `ERR` and `PHASE` differ, however many edges
without START or reset follow. -/
def Obligations.RefusedTransferProducesNothing : Prop :=
  ∀ (s : State) (p : Pins) (ps : List Pins) (rest : List Stimulus),
    s.live = true → s.busy = false → p.rst = false → p.start = true → 65536 < p.base.toNat + p.len.toNat →
    (∀ q ∈ ps, q.rst = false ∧ q.start = false) → s.inputs = (p :: ps).map Stimulus.edge ++ rest →
      Host.Core.run Sys2Proof.core (ps.length + 1) s = .next { s with err := true, phase := .idle, inputs := rest }

/-! ### The clocked machine -/

/-- R107: the line is high for exactly `N(v)` clock periods and then low for exactly `N(v)`, with `TIMER` counting down. -/
def Obligations.BitHoldsItsLevelsForItsPeriods : Prop :=
  ∀ s : State, s.live = true → s.busy = true → s.bitpos.toNat ≤ 9 → s.half = false → s.line = true →
    s.timer = (if s.currentBit then Config.timing.nShort else Config.timing.nLong) → Undisturbed s.inputs →
      (∀ j, j < s.timer → ∃ t, Host.Core.run Sys2Proof.core j s = .next t ∧ t.line = true ∧ t.timer = s.timer - j) ∧
      (∀ j, s.timer ≤ j → j < 2 * s.timer → ∃ t, Host.Core.run Sys2Proof.core j s = .next t ∧ t.line = false ∧
        t.half = true ∧ t.timer = 2 * s.timer - j)

/-- R112: when a bit finishes with `BITPOS < 9`, the same edge begins the next bit of the frame. That `BITTRACE` and `LTRACE`
record the bit and its low segment on this edge is the model's choice (log 14). -/
def Obligations.NextFrameBitBeginsOnTheSameEdge : Prop :=
  ∀ (s : State) (p : Pins) (rest : List Stimulus), s.live = true → s.busy = true → s.bitpos.toNat < 9 → s.half = true →
    s.timer ≤ 1 → s.inputs = .edge p :: rest → p.rst = false →
      let v := frameBit s.shreg (s.bitpos.toNat + 1)
      step s = .next { s with
        inputs := rest, bitpos := BitVec.ofNat 4 (s.bitpos.toNat + 1), line := true, half := false
        timer := if v then Config.timing.nShort else Config.timing.nLong
        bitTrace := s.bitTrace ++ [frameBit s.shreg s.bitpos.toNat]
        lTrace := s.lTrace ++ [⟨false, if frameBit s.shreg s.bitpos.toNat then .short else .long⟩] }

/-- R141: the rows of the transition table, each taken on the edge that ends the stop bit, with the byte it loads. That the
three traces record on this edge is the model's choice (log 14), and so are the empty block that the row (`BlockStart`, 1)
sizes past the end of the payload, a payload index above 65535 taken to 16 bits and a `BIDX` of 32 taken to 5, none of
which a run reaches (log 22). -/
def Obligations.NextFollowsTheTable : Prop :=
  ∀ (s : State) (p : Pins) (rest : List Stimulus), s.AtByteEnd → s.inputs = .edge p :: rest → p.rst = false →
    let u := (s.withInputs rest).recorded
    let load := fun (v : State) (b : Byte) => Host.Outcome.next (φ := Fault) (ρ := Refusal)
      { v with shreg := b, bitpos := 0, line := true, half := false, timer := Config.timing.nLong }
    let n := min (s.lenl.toNat - s.pcur.toNat) (16 - s.addr.toNat % 16)
    let lenb : Byte := BitVec.ofNat 8 (n + 2)
    let hi : Byte := BitVec.ofNat 8 (s.addr.toNat / 256)
    let lo : Byte := BitVec.ofNat 8 (s.addr.toNat % 256)
    let addr' : Addr := BitVec.ofNat 16 ((s.addr.toNat + s.blen.toNat) % 65536)
    let pcur' : Len := BitVec.ofNat 17 (s.pcur.toNat + s.blen.toNat)
    (s.phase = .preamble → s.bidx = 0 → step s = load { u with bidx := 1 } 0xFF) ∧
    (s.phase = .preamble → s.bidx = 1 → s.pcur.toNat < s.lenl.toNat →
      step s = load { u with phase := .blockStart, bidx := 0 } 0x53) ∧
    (s.phase = .preamble → s.bidx = 1 → s.pcur = s.lenl → step s = load { u with phase := .trailer, bidx := 0 } 0x53) ∧
    (s.phase = .blockStart → s.bidx = 0 → step s = load { u with bidx := 1 } 0x31) ∧
    (s.phase = .blockStart → s.bidx = 1 →
      step s = load { u with phase := .blockBody, bidx := 0, blen := BitVec.ofNat 5 n, csum := lenb } lenb) ∧
    (s.phase = .blockBody → s.bidx = 0 → step s = load { u with bidx := 1, csum := s.csum + hi } hi) ∧
    (s.phase = .blockBody → s.bidx = 1 → step s = load { u with bidx := 2, csum := s.csum + lo } lo) ∧
    (s.phase = .blockBody → 2 ≤ s.bidx.toNat → s.bidx.toNat ≤ s.blen.toNat + 1 →
      s.pcur.toNat + s.blen.toNat ≤ s.lenl.toNat → p.pData = none →
        let b := s.payloadAt (s.pcur.toNat + s.bidx.toNat - 2)
        step s = load { u with bidx := s.bidx + 1, csum := s.csum + b } b) ∧
    (s.phase = .blockBody → s.bidx.toNat = s.blen.toNat + 2 →
      step s = load { u with phase := .blockChecksum, bidx := 0 } (BitVec.ofNat 8 ((256 - s.csum.toNat) % 256))) ∧
    (s.phase = .blockChecksum → s.bidx = 0 → s.pcur.toNat + s.blen.toNat < s.lenl.toNat →
      step s = load { u with phase := .blockStart, bidx := 0, addr := addr', pcur := pcur' } 0x53) ∧
    (s.phase = .blockChecksum → s.bidx = 0 → s.pcur.toNat + s.blen.toNat = s.lenl.toNat →
      step s = load { u with phase := .trailer, bidx := 0, addr := addr', pcur := pcur' } 0x53) ∧
    (s.phase = .trailer → s.bidx = 0 → step s = load { u with bidx := 1 } 0x4A) ∧
    (s.phase = .trailer → s.bidx = 1 → step s = .next { u with phase := .done, bidx := 0 })

/-- R142: a clock edge changes the phase along the state machine only; without reset, `Idle` and `Done` are left on a START
alone. -/
def Obligations.PhaseMovesOnlyAlongTheStateMachine : Prop :=
  ∀ (s t : State) (p : Pins) (rest : List Stimulus), s.live = true → s.inputs = .edge p :: rest → step s = .next t →
    (p.rst = true → t.phase = .idle) ∧
    (p.rst = false → phaseStep s.phase t.phase = true ∧
      (s.busy = false → t.phase ≠ s.phase → p.start = true ∧
        (t.phase = .preamble ↔ p.base.toNat + p.len.toNat ≤ 65536)))

/-- R155: `P_ADDR` is the index of the data byte that comes next, or the low bits of `PCUR`; no edge but the one that ends the
frame changes it. -/
def Obligations.PayloadAddressIsStableForAFrame : Prop :=
  (∀ s : State, s.phase = .blockBody → 2 ≤ s.bidx.toNat → s.bidx.toNat ≤ s.blen.toNat + 1 →
    s.pAddr.toNat = (s.pcur.toNat + s.bidx.toNat - 2) % 65536) ∧
  (∀ s : State, ¬(s.phase = .blockBody ∧ 2 ≤ s.bidx.toNat ∧ s.bidx.toNat ≤ s.blen.toNat + 1) →
    s.pAddr.toNat = s.pcur.toNat % 65536) ∧
  ∀ (s t : State) (p : Pins) (rest : List Stimulus), s.live = true → s.busy = true → s.inputs = .edge p :: rest →
    p.rst = false → ¬s.AtByteEnd → step s = .next t → t.pAddr = s.pAddr

/-- R191, log 10: a late answer of the payload source is sent, and counted, as whatever `P_DATA` held. A `BIDX` of 32, which
no run reaches, is taken to 5 bits (log 22). -/
def Obligations.LateAnswerIsSentAsItStands : Prop :=
  ∀ (s : State) (p : Pins) (b : Byte) (rest : List Stimulus), s.AtByteEnd → s.phase = .blockBody → 2 ≤ s.bidx.toNat →
    s.bidx.toNat ≤ s.blen.toNat + 1 → s.pcur.toNat + s.blen.toNat ≤ s.lenl.toNat → s.inputs = .edge p :: rest →
    p.rst = false → p.pData = some b → ∃ t, step s = .next t ∧ t.shreg = b ∧ t.csum = s.csum + b ∧ t.bidx = s.bidx + 1

/-- R186: a payload byte is read when its frame begins. A byte that the host changes before that moment is sent with its
new value; changing another byte has no effect on what is sent; the checksum is computed on what was sent. -/
def Obligations.ChangedPayloadByteIsSentAsItStands : Prop :=
  ∀ (s : State) (i : Addr) (b : Byte) (p : Pins) (rest : List Stimulus), s.AtByteEnd → s.phase = .blockBody →
    2 ≤ s.bidx.toNat → s.bidx.toNat ≤ s.blen.toNat + 1 → s.pcur.toNat + s.blen.toNat ≤ s.lenl.toNat →
    s.inputs = .place i b :: .edge p :: rest → p.rst = false → p.pData = none → ∃ t u,
      step s = .next t ∧ step t = .next u ∧ u.shreg = (if i = s.pAddr then b else s.memRead s.pAddr) ∧
        u.csum = s.csum + u.shreg

/-- R157: what the status outputs say of each other, and what changes them. -/
def Obligations.StatusOutputsFollowTheRules : Prop :=
  ∀ (s : State) (p : Pins) (rest : List Stimulus), s.Inv → s.live = true → s.inputs = .edge p :: rest →
    (¬(s.busy = true ∧ s.done = true)) ∧ (s.err = true → s.phase = .idle ∧ s.busy = false ∧ s.done = false) ∧
    ∃ t, step s = .next t ∧
      (p.rst = false → s.busy = false → p.start = true → p.base.toNat + p.len.toNat ≤ 65536 →
        t.busy = true ∧ t.done = false ∧ t.err = false) ∧
      (p.rst = false → s.busy = false → p.start = true → 65536 < p.base.toNat + p.len.toNat →
        t.busy = false ∧ t.done = false ∧ t.err = true) ∧
      (p.rst = false → s.busy = false → p.start = false → t.done = s.done ∧ t.err = s.err ∧ t.busy = false) ∧
      (p.rst = false → s.busy = true →
        t.err = s.err ∧ (t.done = true ↔ s.AtByteEnd ∧ s.phase = .trailer ∧ s.bidx = 1) ∧ t.busy = !t.done) ∧
      (p.rst = true → t.busy = false ∧ t.done = false ∧ t.err = false)

/-- R147, which the spec derives from R107, R112, R141 and R146, says that the clocked machine shows the segments of the
transfer and reaches `Done` after as many clock periods as the stream has: an accepted START and that many conforming edges
give the state that `TRANSMIT` gives. That the two states agree as a whole rests on the model's choices for `HALF`,
`TIMER`, `SHREG` and `BITPOS` (log 3), for `BIDX` (log 4) and for the traces (log 14). START, `BASE` and `LEN` may be
anything on the later edges. -/
def Obligations.ClockedRunIsTransmit : Prop :=
  ∀ (s : State) (p : Pins) (ps : List Pins) (rest : List Stimulus),
    s.live = true → s.busy = false → p.rst = false → p.start = true → p.base.toNat + p.len.toNat ≤ 65536 →
    (∀ q ∈ ps, q.Conforming) → ps.length = transferPeriods s p.base p.len →
    s.inputs = (p :: ps).map Stimulus.edge ++ rest →
      Host.Core.run Sys2Proof.core (ps.length + 1) s =
        exec (.transmit p.base p.len) { s with err := false, inputs := rest }

/-- R11 and R147, which the spec derives from R107, R112, R141 and R146: the line shows, clock period by clock period, the
segments of the stream, each high or low for its number of periods, beginning in the period after the START edge, and is
low in the period after the last segment. -/
def Obligations.LineShowsTheStream : Prop :=
  ∀ (s : State) (p : Pins) (ps : List Pins) (rest : List Stimulus),
    s.live = true → s.busy = false → p.rst = false → p.start = true → p.base.toNat + p.len.toNat ≤ 65536 →
    (∀ q ∈ ps, q.Conforming) → ps.length = transferPeriods s p.base p.len →
    s.inputs = (p :: ps).map Stimulus.edge ++ rest →
      waveform ps.length s = levels Config.timing (wireSegments (stream p.base.toNat p.len.toNat s.payloadAt)) ∧
        waveform (ps.length + 1) s = waveform ps.length s ++ [false]

/-! ### Invariants -/

/-- R40, which the spec derives from R131, R141, R146 and R150: the reset state is in the invariant. -/
def Obligations.ResetStateIsInRange : Prop :=
  State.reset.Inv

/-- R40, which the spec derives from R131, R141, R146 and R150: every step of a run of the hardware keeps the ranges of
the registers. -/
def Obligations.StepKeepsTheRanges : Prop :=
  ∀ s t : State, s.Inv → step s = .next t → t.Inv

/-- R160, and R175, which the spec derives: within the ranges no clock edge stops: there is always a next state. -/
def Obligations.EdgeNeverStops : Prop :=
  ∀ s : State, s.Inv → s.live = true → (s.inputs = [] ∨ ∃ p rest, s.inputs = .edge p :: rest) → ∃ t, step s = .next t

/-- Log 7, the model's own form: every step keeps the payload memory canonical. -/
def Obligations.StepKeepsPayloadCanonical : Prop :=
  ∀ s t : State, s.payload.wf = true → step s = .next t → t.payload.wf = true

/-- R52: the block writes no memory: only the host's placing of a byte changes the payload. -/
def Obligations.BlockWritesNoMemory : Prop :=
  ∀ s t : State, (∀ i b rest, s.inputs ≠ .place i b :: rest) → step s = .next t →
    t.payload = s.payload ∧ ∀ i, t.memRead i = s.memRead i

/-- R50, R59, R158: a placed byte reads back, every other index reads as before, and nothing else changes. -/
def Obligations.PlacedByteReadsBack : Prop :=
  ∀ (s : State) (i : Addr) (b : Byte) (rest : List Stimulus), s.inputs = .place i b :: rest → ∃ t,
    step s = .next t ∧ t.memRead i = b ∧ (∀ j, j ≠ i → t.memRead j = s.memRead j) ∧
      t = { s with inputs := rest, payload := t.payload }

/-! ### Power, and what the model refuses -/

/-- R182, R174, log 15: after a loss of power no edge but a reset has a meaning, and a reset gives the reset state, with
payload, schedule and traces kept (log 16, the model's choice). -/
def Obligations.NothingRunsBeforeTheFirstReset : Prop :=
  ∀ (s : State) (p : Pins) (rest : List Stimulus), s.inputs = .powerLoss :: .edge p :: rest → ∃ t,
    step s = .next t ∧ t.live = false ∧ t.payload = s.payload ∧
    (p.rst = false → step t = .refused .beforeFirstReset) ∧
    (p.rst = true → step t = .next { State.reset with
      payload := s.payload, inputs := rest, byteTrace := s.byteTrace, bitTrace := s.bitTrace, lTrace := s.lTrace
      powerLosses := s.powerLosses + 1 })

/-- Log 11, the model's choice on D27: at the end of a byte, a position that the table of R141 does not hold is refused. -/
def Obligations.UnreachablePositionIsRefused : Prop :=
  ∀ (s : State) (p : Pins) (rest : List Stimulus), s.AtByteEnd → s.inputs = .edge p :: rest → p.rst = false →
    ((s.phase = .preamble ∨ s.phase = .blockStart ∨ s.phase = .trailer) → 2 ≤ s.bidx.toNat →
      step s = .refused .unreachablePosition) ∧
    (s.phase = .blockBody → s.blen.toNat + 2 < s.bidx.toNat → step s = .refused .unreachablePosition) ∧
    (s.phase = .blockChecksum → 1 ≤ s.bidx.toNat → step s = .refused .unreachablePosition) ∧
    (s.phase = .preamble → s.bidx = 1 → s.lenl.toNat < s.pcur.toNat → step s = .refused .unreachablePosition) ∧
    (s.phase = .blockChecksum → s.bidx = 0 → s.lenl.toNat < s.pcur.toNat + s.blen.toNat →
      step s = .refused .unreachablePosition)
end

