-- ==== Sys2Proof/Laws/Memory.lean ====
section
/-! SUPPORT. The payload memory: read after write, and the canonical form. -/

namespace Sys2Proof.Machine

theorem Memory.get?_set_same (m : Memory) (i : Nat) (b : Byte) : (m.set i b).get? i = some b := by
  induction m with
  | nil => simp [Memory.set, Memory.get?]
  | cons x rest ih =>
    obtain ⟨j, c⟩ := x
    simp only [Memory.set]
    split
    · simp [Memory.get?]
    · split
      · simp [Memory.get?]
      · simp [Memory.get?, ih, Ne.symm ‹¬i = j›]

theorem Memory.get?_set_other (m : Memory) {i k : Nat} (b : Byte) (h : k ≠ i) :
    (m.set i b).get? k = m.get? k := by
  induction m with
  | nil => simp [Memory.set, Memory.get?, h.symm]
  | cons x rest ih =>
    obtain ⟨j, c⟩ := x
    simp only [Memory.set]
    split
    · simp [Memory.get?, h.symm]
    · split
      · subst_vars
        simp [Memory.get?, h.symm]
      · simp [Memory.get?, ih]

/-- A write at or above the bound keeps the canonical form above it. -/
theorem Memory.wfFrom_set {m : Memory} {lo i : Nat} (b : Byte) (hm : Memory.wfFrom lo m = true) (hlo : lo ≤ i)
    (hi : i < 65536) : Memory.wfFrom lo (m.set i b) = true := by
  induction m generalizing lo with
  | nil => simp [Memory.set, Memory.wfFrom, hlo, hi]
  | cons x rest ih =>
    obtain ⟨j, c⟩ := x
    simp only [Memory.wfFrom, Bool.and_eq_true, decide_eq_true_eq] at hm
    obtain ⟨⟨hj, hj'⟩, hrest⟩ := hm
    simp only [Memory.set]
    split
    · simp only [Memory.wfFrom, Bool.and_eq_true, decide_eq_true_eq]
      exact ⟨⟨hlo, hi⟩, ⟨by omega, hj'⟩, hrest⟩
    · split
      · subst_vars
        simp [Memory.wfFrom, hlo, hi, hrest]
      · simp only [Memory.wfFrom, Bool.and_eq_true, decide_eq_true_eq]
        exact ⟨⟨hj, hj'⟩, ih hrest (by omega)⟩

/-- Placing a byte keeps the canonical form. It is the only operation on the payload memory. -/
theorem State.placeByte_wf {s : State} (i : Addr) (b : Byte) (h : s.payload.wf = true) :
    (s.placeByte i b).payload.wf = true :=
  Memory.wfFrom_set b h (Nat.zero_le _) i.isLt

theorem State.reset_wf : State.reset.payload.wf = true := rfl

/-- Below the bound a canonical memory holds nothing. -/
theorem Memory.get?_below {m : Memory} {lo i : Nat} (hm : Memory.wfFrom lo m = true) (h : i < lo) :
    m.get? i = none := by
  induction m generalizing lo with
  | nil => rfl
  | cons x rest ih =>
    obtain ⟨j, c⟩ := x
    simp only [Memory.wfFrom, Bool.and_eq_true, decide_eq_true_eq] at hm
    simp only [Memory.get?, if_neg (show ¬j = i by omega)]
    exact ih hm.2 (by omega)

/-- Canonical memories that hold the same bytes are the same data. -/
theorem Memory.eq_of_get? {m n : Memory} {lo : Nat} (hm : Memory.wfFrom lo m = true)
    (hn : Memory.wfFrom lo n = true) (h : ∀ i, m.get? i = n.get? i) : m = n := by
  induction m generalizing n lo with
  | nil =>
    cases n with
    | nil => rfl
    | cons y _ =>
      have := h y.1
      simp [Memory.get?] at this
  | cons x rest ih =>
    obtain ⟨j, c⟩ := x
    cases n with
    | nil =>
      have := h j
      simp [Memory.get?] at this
    | cons y rest' =>
      obtain ⟨k, d⟩ := y
      simp only [Memory.wfFrom, Bool.and_eq_true, decide_eq_true_eq] at hm hn
      have hjk : j = k := by
        rcases Nat.lt_trichotomy j k with hlt | heq | hgt
        · have := h j
          simp [Memory.get?, Nat.ne_of_gt hlt, Memory.get?_below hn.2 (show j < k + 1 by omega)] at this
        · exact heq
        · have := h k
          simp [Memory.get?, Nat.ne_of_gt hgt, Memory.get?_below hm.2 (show k < j + 1 by omega)] at this
      subst hjk
      have hcd : c = d := by
        have := h j
        simpa [Memory.get?] using this
      have hrest : rest = rest' := by
        refine ih hm.2 hn.2 fun i => ?_
        have := h i
        simp only [Memory.get?] at this
        by_cases hi : j = i
        · subst hi
          rw [Memory.get?_below hm.2 (by omega), Memory.get?_below hn.2 (by omega)]
        · simpa [hi] using this
      rw [hcd, hrest]

end Sys2Proof.Machine
end

