-- ==== Sys2Proof/Laws/State.lean ====
section
/-! SUPPORT. What each named update of the state does to each field: one lemma per field per update. -/

namespace Sys2Proof.Machine

/-! ### `drive` -/

@[simp] theorem State.drive_line (s : State) (v : Bool) (d : Dur) : (s.drive v d).line = v := rfl
@[simp] theorem State.drive_phase (s : State) (v : Bool) (d : Dur) : (s.drive v d).phase = s.phase := rfl
@[simp] theorem State.drive_err (s : State) (v : Bool) (d : Dur) : (s.drive v d).err = s.err := rfl
@[simp] theorem State.drive_csum (s : State) (v : Bool) (d : Dur) : (s.drive v d).csum = s.csum := rfl
@[simp] theorem State.drive_addr (s : State) (v : Bool) (d : Dur) : (s.drive v d).addr = s.addr := rfl
@[simp] theorem State.drive_pcur (s : State) (v : Bool) (d : Dur) : (s.drive v d).pcur = s.pcur := rfl
@[simp] theorem State.drive_lenl (s : State) (v : Bool) (d : Dur) : (s.drive v d).lenl = s.lenl := rfl
@[simp] theorem State.drive_blen (s : State) (v : Bool) (d : Dur) : (s.drive v d).blen = s.blen := rfl
@[simp] theorem State.drive_bidx (s : State) (v : Bool) (d : Dur) : (s.drive v d).bidx = s.bidx := rfl
@[simp] theorem State.drive_shreg (s : State) (v : Bool) (d : Dur) : (s.drive v d).shreg = s.shreg := rfl
@[simp] theorem State.drive_bitpos (s : State) (v : Bool) (d : Dur) : (s.drive v d).bitpos = s.bitpos := rfl
@[simp] theorem State.drive_half (s : State) (v : Bool) (d : Dur) : (s.drive v d).half = !v := rfl
@[simp] theorem State.drive_timer (s : State) (v : Bool) (d : Dur) : (s.drive v d).timer = 1 := rfl
@[simp] theorem State.drive_payload (s : State) (v : Bool) (d : Dur) : (s.drive v d).payload = s.payload := rfl
@[simp] theorem State.drive_inputs (s : State) (v : Bool) (d : Dur) : (s.drive v d).inputs = s.inputs := rfl
@[simp] theorem State.drive_byteTrace (s : State) (v : Bool) (d : Dur) : (s.drive v d).byteTrace = s.byteTrace := rfl
@[simp] theorem State.drive_bitTrace (s : State) (v : Bool) (d : Dur) : (s.drive v d).bitTrace = s.bitTrace := rfl
@[simp] theorem State.drive_lTrace (s : State) (v : Bool) (d : Dur) : (s.drive v d).lTrace = s.lTrace ++ [⟨v, d⟩] := rfl
@[simp] theorem State.drive_live (s : State) (v : Bool) (d : Dur) : (s.drive v d).live = s.live := rfl
@[simp] theorem State.drive_powerLosses (s : State) (v : Bool) (d : Dur) : (s.drive v d).powerLosses = s.powerLosses := rfl

/-! ### `sendBit` -/

@[simp] theorem State.sendBit_line (s : State) (v : Bool) : (s.sendBit v).line = false := rfl
@[simp] theorem State.sendBit_phase (s : State) (v : Bool) : (s.sendBit v).phase = s.phase := rfl
@[simp] theorem State.sendBit_err (s : State) (v : Bool) : (s.sendBit v).err = s.err := rfl
@[simp] theorem State.sendBit_csum (s : State) (v : Bool) : (s.sendBit v).csum = s.csum := rfl
@[simp] theorem State.sendBit_addr (s : State) (v : Bool) : (s.sendBit v).addr = s.addr := rfl
@[simp] theorem State.sendBit_pcur (s : State) (v : Bool) : (s.sendBit v).pcur = s.pcur := rfl
@[simp] theorem State.sendBit_lenl (s : State) (v : Bool) : (s.sendBit v).lenl = s.lenl := rfl
@[simp] theorem State.sendBit_blen (s : State) (v : Bool) : (s.sendBit v).blen = s.blen := rfl
@[simp] theorem State.sendBit_bidx (s : State) (v : Bool) : (s.sendBit v).bidx = s.bidx := rfl
@[simp] theorem State.sendBit_shreg (s : State) (v : Bool) : (s.sendBit v).shreg = s.shreg := rfl
@[simp] theorem State.sendBit_bitpos (s : State) (v : Bool) : (s.sendBit v).bitpos = s.bitpos := rfl
@[simp] theorem State.sendBit_half (s : State) (v : Bool) : (s.sendBit v).half = true := rfl
@[simp] theorem State.sendBit_timer (s : State) (v : Bool) : (s.sendBit v).timer = 1 := rfl
@[simp] theorem State.sendBit_payload (s : State) (v : Bool) : (s.sendBit v).payload = s.payload := rfl
@[simp] theorem State.sendBit_inputs (s : State) (v : Bool) : (s.sendBit v).inputs = s.inputs := rfl
@[simp] theorem State.sendBit_byteTrace (s : State) (v : Bool) : (s.sendBit v).byteTrace = s.byteTrace := rfl
@[simp] theorem State.sendBit_bitTrace (s : State) (v : Bool) : (s.sendBit v).bitTrace = s.bitTrace ++ [v] := rfl
@[simp] theorem State.sendBit_live (s : State) (v : Bool) : (s.sendBit v).live = s.live := rfl
@[simp] theorem State.sendBit_powerLosses (s : State) (v : Bool) : (s.sendBit v).powerLosses = s.powerLosses := rfl
@[simp] theorem State.sendBit_lTrace (s : State) (v : Bool) : (s.sendBit v).lTrace = s.lTrace ++ pulse v :=
  List.append_assoc ..

/-! ### `enter` -/

@[simp] theorem State.enter_line (s : State) (p : Phase) : (s.enter p).line = s.line := rfl
@[simp] theorem State.enter_phase (s : State) (p : Phase) : (s.enter p).phase = p := rfl
@[simp] theorem State.enter_err (s : State) (p : Phase) : (s.enter p).err = s.err := rfl
@[simp] theorem State.enter_csum (s : State) (p : Phase) : (s.enter p).csum = s.csum := rfl
@[simp] theorem State.enter_addr (s : State) (p : Phase) : (s.enter p).addr = s.addr := rfl
@[simp] theorem State.enter_pcur (s : State) (p : Phase) : (s.enter p).pcur = s.pcur := rfl
@[simp] theorem State.enter_lenl (s : State) (p : Phase) : (s.enter p).lenl = s.lenl := rfl
@[simp] theorem State.enter_blen (s : State) (p : Phase) : (s.enter p).blen = s.blen := rfl
@[simp] theorem State.enter_bidx (s : State) (p : Phase) : (s.enter p).bidx = s.bidx := rfl
@[simp] theorem State.enter_shreg (s : State) (p : Phase) : (s.enter p).shreg = s.shreg := rfl
@[simp] theorem State.enter_bitpos (s : State) (p : Phase) : (s.enter p).bitpos = s.bitpos := rfl
@[simp] theorem State.enter_half (s : State) (p : Phase) : (s.enter p).half = s.half := rfl
@[simp] theorem State.enter_timer (s : State) (p : Phase) : (s.enter p).timer = s.timer := rfl
@[simp] theorem State.enter_payload (s : State) (p : Phase) : (s.enter p).payload = s.payload := rfl
@[simp] theorem State.enter_inputs (s : State) (p : Phase) : (s.enter p).inputs = s.inputs := rfl
@[simp] theorem State.enter_byteTrace (s : State) (p : Phase) : (s.enter p).byteTrace = s.byteTrace := rfl
@[simp] theorem State.enter_bitTrace (s : State) (p : Phase) : (s.enter p).bitTrace = s.bitTrace := rfl
@[simp] theorem State.enter_lTrace (s : State) (p : Phase) : (s.enter p).lTrace = s.lTrace := rfl
@[simp] theorem State.enter_live (s : State) (p : Phase) : (s.enter p).live = s.live := rfl
@[simp] theorem State.enter_powerLosses (s : State) (p : Phase) : (s.enter p).powerLosses = s.powerLosses := rfl

/-! ### `sizeBlock` -/

@[simp] theorem State.sizeBlock_line (s : State) : (s.sizeBlock).line = s.line := rfl
@[simp] theorem State.sizeBlock_phase (s : State) : (s.sizeBlock).phase = s.phase := rfl
@[simp] theorem State.sizeBlock_err (s : State) : (s.sizeBlock).err = s.err := rfl
@[simp] theorem State.sizeBlock_csum (s : State) : (s.sizeBlock).csum = s.csum := rfl
@[simp] theorem State.sizeBlock_addr (s : State) : (s.sizeBlock).addr = s.addr := rfl
@[simp] theorem State.sizeBlock_pcur (s : State) : (s.sizeBlock).pcur = s.pcur := rfl
@[simp] theorem State.sizeBlock_lenl (s : State) : (s.sizeBlock).lenl = s.lenl := rfl
@[simp] theorem State.sizeBlock_blen (s : State) : (s.sizeBlock).blen = s.nextBlen := rfl
@[simp] theorem State.sizeBlock_bidx (s : State) : (s.sizeBlock).bidx = s.bidx := rfl
@[simp] theorem State.sizeBlock_shreg (s : State) : (s.sizeBlock).shreg = s.shreg := rfl
@[simp] theorem State.sizeBlock_bitpos (s : State) : (s.sizeBlock).bitpos = s.bitpos := rfl
@[simp] theorem State.sizeBlock_half (s : State) : (s.sizeBlock).half = s.half := rfl
@[simp] theorem State.sizeBlock_timer (s : State) : (s.sizeBlock).timer = s.timer := rfl
@[simp] theorem State.sizeBlock_payload (s : State) : (s.sizeBlock).payload = s.payload := rfl
@[simp] theorem State.sizeBlock_inputs (s : State) : (s.sizeBlock).inputs = s.inputs := rfl
@[simp] theorem State.sizeBlock_byteTrace (s : State) : (s.sizeBlock).byteTrace = s.byteTrace := rfl
@[simp] theorem State.sizeBlock_bitTrace (s : State) : (s.sizeBlock).bitTrace = s.bitTrace := rfl
@[simp] theorem State.sizeBlock_lTrace (s : State) : (s.sizeBlock).lTrace = s.lTrace := rfl
@[simp] theorem State.sizeBlock_live (s : State) : (s.sizeBlock).live = s.live := rfl
@[simp] theorem State.sizeBlock_powerLosses (s : State) : (s.sizeBlock).powerLosses = s.powerLosses := rfl

/-! ### `clearSum` -/

@[simp] theorem State.clearSum_line (s : State) : (s.clearSum).line = s.line := rfl
@[simp] theorem State.clearSum_phase (s : State) : (s.clearSum).phase = s.phase := rfl
@[simp] theorem State.clearSum_err (s : State) : (s.clearSum).err = s.err := rfl
@[simp] theorem State.clearSum_csum (s : State) : (s.clearSum).csum = 0 := rfl
@[simp] theorem State.clearSum_addr (s : State) : (s.clearSum).addr = s.addr := rfl
@[simp] theorem State.clearSum_pcur (s : State) : (s.clearSum).pcur = s.pcur := rfl
@[simp] theorem State.clearSum_lenl (s : State) : (s.clearSum).lenl = s.lenl := rfl
@[simp] theorem State.clearSum_blen (s : State) : (s.clearSum).blen = s.blen := rfl
@[simp] theorem State.clearSum_bidx (s : State) : (s.clearSum).bidx = s.bidx := rfl
@[simp] theorem State.clearSum_shreg (s : State) : (s.clearSum).shreg = s.shreg := rfl
@[simp] theorem State.clearSum_bitpos (s : State) : (s.clearSum).bitpos = s.bitpos := rfl
@[simp] theorem State.clearSum_half (s : State) : (s.clearSum).half = s.half := rfl
@[simp] theorem State.clearSum_timer (s : State) : (s.clearSum).timer = s.timer := rfl
@[simp] theorem State.clearSum_payload (s : State) : (s.clearSum).payload = s.payload := rfl
@[simp] theorem State.clearSum_inputs (s : State) : (s.clearSum).inputs = s.inputs := rfl
@[simp] theorem State.clearSum_byteTrace (s : State) : (s.clearSum).byteTrace = s.byteTrace := rfl
@[simp] theorem State.clearSum_bitTrace (s : State) : (s.clearSum).bitTrace = s.bitTrace := rfl
@[simp] theorem State.clearSum_lTrace (s : State) : (s.clearSum).lTrace = s.lTrace := rfl
@[simp] theorem State.clearSum_live (s : State) : (s.clearSum).live = s.live := rfl
@[simp] theorem State.clearSum_powerLosses (s : State) : (s.clearSum).powerLosses = s.powerLosses := rfl

/-! ### `advance` -/

@[simp] theorem State.advance_line (s : State) : (s.advance).line = s.line := rfl
@[simp] theorem State.advance_phase (s : State) : (s.advance).phase = s.phase := rfl
@[simp] theorem State.advance_err (s : State) : (s.advance).err = s.err := rfl
@[simp] theorem State.advance_csum (s : State) : (s.advance).csum = s.csum := rfl
@[simp] theorem State.advance_addr (s : State) : (s.advance).addr = s.addrAfter := rfl
@[simp] theorem State.advance_pcur (s : State) : (s.advance).pcur = BitVec.ofNat 17 s.pcurAfter := rfl
@[simp] theorem State.advance_lenl (s : State) : (s.advance).lenl = s.lenl := rfl
@[simp] theorem State.advance_blen (s : State) : (s.advance).blen = s.blen := rfl
@[simp] theorem State.advance_bidx (s : State) : (s.advance).bidx = s.bidx := rfl
@[simp] theorem State.advance_shreg (s : State) : (s.advance).shreg = s.shreg := rfl
@[simp] theorem State.advance_bitpos (s : State) : (s.advance).bitpos = s.bitpos := rfl
@[simp] theorem State.advance_half (s : State) : (s.advance).half = s.half := rfl
@[simp] theorem State.advance_timer (s : State) : (s.advance).timer = s.timer := rfl
@[simp] theorem State.advance_payload (s : State) : (s.advance).payload = s.payload := rfl
@[simp] theorem State.advance_inputs (s : State) : (s.advance).inputs = s.inputs := rfl
@[simp] theorem State.advance_byteTrace (s : State) : (s.advance).byteTrace = s.byteTrace := rfl
@[simp] theorem State.advance_bitTrace (s : State) : (s.advance).bitTrace = s.bitTrace := rfl
@[simp] theorem State.advance_lTrace (s : State) : (s.advance).lTrace = s.lTrace := rfl
@[simp] theorem State.advance_live (s : State) : (s.advance).live = s.live := rfl
@[simp] theorem State.advance_powerLosses (s : State) : (s.advance).powerLosses = s.powerLosses := rfl

/-! ### `latch` -/

@[simp] theorem State.latch_line (s : State) (base : Addr) (len : Len) : (s.latch base len).line = s.line := rfl
@[simp] theorem State.latch_phase (s : State) (base : Addr) (len : Len) : (s.latch base len).phase = .preamble := rfl
@[simp] theorem State.latch_err (s : State) (base : Addr) (len : Len) : (s.latch base len).err = s.err := rfl
@[simp] theorem State.latch_csum (s : State) (base : Addr) (len : Len) : (s.latch base len).csum = s.csum := rfl
@[simp] theorem State.latch_addr (s : State) (base : Addr) (len : Len) : (s.latch base len).addr = base := rfl
@[simp] theorem State.latch_pcur (s : State) (base : Addr) (len : Len) : (s.latch base len).pcur = 0 := rfl
@[simp] theorem State.latch_lenl (s : State) (base : Addr) (len : Len) : (s.latch base len).lenl = len := rfl
@[simp] theorem State.latch_blen (s : State) (base : Addr) (len : Len) : (s.latch base len).blen = s.blen := rfl
@[simp] theorem State.latch_bidx (s : State) (base : Addr) (len : Len) : (s.latch base len).bidx = 0 := rfl
@[simp] theorem State.latch_shreg (s : State) (base : Addr) (len : Len) : (s.latch base len).shreg = s.shreg := rfl
@[simp] theorem State.latch_bitpos (s : State) (base : Addr) (len : Len) : (s.latch base len).bitpos = s.bitpos := rfl
@[simp] theorem State.latch_half (s : State) (base : Addr) (len : Len) : (s.latch base len).half = s.half := rfl
@[simp] theorem State.latch_timer (s : State) (base : Addr) (len : Len) : (s.latch base len).timer = s.timer := rfl
@[simp] theorem State.latch_payload (s : State) (base : Addr) (len : Len) : (s.latch base len).payload = s.payload := rfl
@[simp] theorem State.latch_inputs (s : State) (base : Addr) (len : Len) : (s.latch base len).inputs = s.inputs := rfl
@[simp] theorem State.latch_byteTrace (s : State) (base : Addr) (len : Len) : (s.latch base len).byteTrace = s.byteTrace := rfl
@[simp] theorem State.latch_bitTrace (s : State) (base : Addr) (len : Len) : (s.latch base len).bitTrace = s.bitTrace := rfl
@[simp] theorem State.latch_lTrace (s : State) (base : Addr) (len : Len) : (s.latch base len).lTrace = s.lTrace := rfl
@[simp] theorem State.latch_live (s : State) (base : Addr) (len : Len) : (s.latch base len).live = s.live := rfl
@[simp] theorem State.latch_powerLosses (s : State) (base : Addr) (len : Len) : (s.latch base len).powerLosses = s.powerLosses := rfl

/-! ### `beginBit` -/

@[simp] theorem State.beginBit_line (s : State) (c : Config.Timing) (v : Bool) : (s.beginBit c v).line = true := rfl
@[simp] theorem State.beginBit_phase (s : State) (c : Config.Timing) (v : Bool) : (s.beginBit c v).phase = s.phase := rfl
@[simp] theorem State.beginBit_err (s : State) (c : Config.Timing) (v : Bool) : (s.beginBit c v).err = s.err := rfl
@[simp] theorem State.beginBit_csum (s : State) (c : Config.Timing) (v : Bool) : (s.beginBit c v).csum = s.csum := rfl
@[simp] theorem State.beginBit_addr (s : State) (c : Config.Timing) (v : Bool) : (s.beginBit c v).addr = s.addr := rfl
@[simp] theorem State.beginBit_pcur (s : State) (c : Config.Timing) (v : Bool) : (s.beginBit c v).pcur = s.pcur := rfl
@[simp] theorem State.beginBit_lenl (s : State) (c : Config.Timing) (v : Bool) : (s.beginBit c v).lenl = s.lenl := rfl
@[simp] theorem State.beginBit_blen (s : State) (c : Config.Timing) (v : Bool) : (s.beginBit c v).blen = s.blen := rfl
@[simp] theorem State.beginBit_bidx (s : State) (c : Config.Timing) (v : Bool) : (s.beginBit c v).bidx = s.bidx := rfl
@[simp] theorem State.beginBit_shreg (s : State) (c : Config.Timing) (v : Bool) : (s.beginBit c v).shreg = s.shreg := rfl
@[simp] theorem State.beginBit_bitpos (s : State) (c : Config.Timing) (v : Bool) : (s.beginBit c v).bitpos = s.bitpos := rfl
@[simp] theorem State.beginBit_half (s : State) (c : Config.Timing) (v : Bool) : (s.beginBit c v).half = false := rfl
@[simp] theorem State.beginBit_timer (s : State) (c : Config.Timing) (v : Bool) : (s.beginBit c v).timer = bitPeriods c v := rfl
@[simp] theorem State.beginBit_payload (s : State) (c : Config.Timing) (v : Bool) : (s.beginBit c v).payload = s.payload := rfl
@[simp] theorem State.beginBit_inputs (s : State) (c : Config.Timing) (v : Bool) : (s.beginBit c v).inputs = s.inputs := rfl
@[simp] theorem State.beginBit_byteTrace (s : State) (c : Config.Timing) (v : Bool) : (s.beginBit c v).byteTrace = s.byteTrace := rfl
@[simp] theorem State.beginBit_bitTrace (s : State) (c : Config.Timing) (v : Bool) : (s.beginBit c v).bitTrace = s.bitTrace := rfl
@[simp] theorem State.beginBit_lTrace (s : State) (c : Config.Timing) (v : Bool) : (s.beginBit c v).lTrace = s.lTrace := rfl
@[simp] theorem State.beginBit_live (s : State) (c : Config.Timing) (v : Bool) : (s.beginBit c v).live = s.live := rfl
@[simp] theorem State.beginBit_powerLosses (s : State) (c : Config.Timing) (v : Bool) : (s.beginBit c v).powerLosses = s.powerLosses := rfl

/-! ### `load` -/

@[simp] theorem State.load_line (s : State) (c : Config.Timing) (b : Byte) (count : Bool) : (s.load c b count).line = true := rfl
@[simp] theorem State.load_phase (s : State) (c : Config.Timing) (b : Byte) (count : Bool) : (s.load c b count).phase = s.phase := rfl
@[simp] theorem State.load_err (s : State) (c : Config.Timing) (b : Byte) (count : Bool) : (s.load c b count).err = s.err := rfl
@[simp] theorem State.load_csum (s : State) (c : Config.Timing) (b : Byte) (count : Bool) : (s.load c b count).csum = accumulate s.csum b count := rfl
@[simp] theorem State.load_addr (s : State) (c : Config.Timing) (b : Byte) (count : Bool) : (s.load c b count).addr = s.addr := rfl
@[simp] theorem State.load_pcur (s : State) (c : Config.Timing) (b : Byte) (count : Bool) : (s.load c b count).pcur = s.pcur := rfl
@[simp] theorem State.load_lenl (s : State) (c : Config.Timing) (b : Byte) (count : Bool) : (s.load c b count).lenl = s.lenl := rfl
@[simp] theorem State.load_blen (s : State) (c : Config.Timing) (b : Byte) (count : Bool) : (s.load c b count).blen = s.blen := rfl
@[simp] theorem State.load_bidx (s : State) (c : Config.Timing) (b : Byte) (count : Bool) : (s.load c b count).bidx = s.bidx := rfl
@[simp] theorem State.load_shreg (s : State) (c : Config.Timing) (b : Byte) (count : Bool) : (s.load c b count).shreg = b := rfl
@[simp] theorem State.load_bitpos (s : State) (c : Config.Timing) (b : Byte) (count : Bool) : (s.load c b count).bitpos = 0 := rfl
@[simp] theorem State.load_half (s : State) (c : Config.Timing) (b : Byte) (count : Bool) : (s.load c b count).half = false := rfl
@[simp] theorem State.load_timer (s : State) (c : Config.Timing) (b : Byte) (count : Bool) : (s.load c b count).timer = c.nLong := rfl
@[simp] theorem State.load_payload (s : State) (c : Config.Timing) (b : Byte) (count : Bool) : (s.load c b count).payload = s.payload := rfl
@[simp] theorem State.load_inputs (s : State) (c : Config.Timing) (b : Byte) (count : Bool) : (s.load c b count).inputs = s.inputs := rfl
@[simp] theorem State.load_byteTrace (s : State) (c : Config.Timing) (b : Byte) (count : Bool) : (s.load c b count).byteTrace = s.byteTrace := rfl
@[simp] theorem State.load_bitTrace (s : State) (c : Config.Timing) (b : Byte) (count : Bool) : (s.load c b count).bitTrace = s.bitTrace := rfl
@[simp] theorem State.load_lTrace (s : State) (c : Config.Timing) (b : Byte) (count : Bool) : (s.load c b count).lTrace = s.lTrace := rfl
@[simp] theorem State.load_live (s : State) (c : Config.Timing) (b : Byte) (count : Bool) : (s.load c b count).live = s.live := rfl
@[simp] theorem State.load_powerLosses (s : State) (c : Config.Timing) (b : Byte) (count : Bool) : (s.load c b count).powerLosses = s.powerLosses := rfl

/-! ### `toReset` -/

@[simp] theorem State.toReset_line (s : State) : (s.toReset).line = false := rfl
@[simp] theorem State.toReset_phase (s : State) : (s.toReset).phase = .idle := rfl
@[simp] theorem State.toReset_err (s : State) : (s.toReset).err = false := rfl
@[simp] theorem State.toReset_csum (s : State) : (s.toReset).csum = 0 := rfl
@[simp] theorem State.toReset_addr (s : State) : (s.toReset).addr = 0 := rfl
@[simp] theorem State.toReset_pcur (s : State) : (s.toReset).pcur = 0 := rfl
@[simp] theorem State.toReset_lenl (s : State) : (s.toReset).lenl = 0 := rfl
@[simp] theorem State.toReset_blen (s : State) : (s.toReset).blen = 0 := rfl
@[simp] theorem State.toReset_bidx (s : State) : (s.toReset).bidx = 0 := rfl
@[simp] theorem State.toReset_shreg (s : State) : (s.toReset).shreg = 0 := rfl
@[simp] theorem State.toReset_bitpos (s : State) : (s.toReset).bitpos = 0 := rfl
@[simp] theorem State.toReset_half (s : State) : (s.toReset).half = false := rfl
@[simp] theorem State.toReset_timer (s : State) : (s.toReset).timer = 0 := rfl
@[simp] theorem State.toReset_payload (s : State) : (s.toReset).payload = s.payload := rfl
@[simp] theorem State.toReset_inputs (s : State) : (s.toReset).inputs = s.inputs := rfl
@[simp] theorem State.toReset_byteTrace (s : State) : (s.toReset).byteTrace = s.byteTrace := rfl
@[simp] theorem State.toReset_bitTrace (s : State) : (s.toReset).bitTrace = s.bitTrace := rfl
@[simp] theorem State.toReset_lTrace (s : State) : (s.toReset).lTrace = s.lTrace := rfl
@[simp] theorem State.toReset_live (s : State) : (s.toReset).live = true := rfl
@[simp] theorem State.toReset_powerLosses (s : State) : (s.toReset).powerLosses = s.powerLosses := rfl

/-! ### `placeByte` -/

@[simp] theorem State.placeByte_line (s : State) (i : Addr) (b : Byte) : (s.placeByte i b).line = s.line := rfl
@[simp] theorem State.placeByte_phase (s : State) (i : Addr) (b : Byte) : (s.placeByte i b).phase = s.phase := rfl
@[simp] theorem State.placeByte_err (s : State) (i : Addr) (b : Byte) : (s.placeByte i b).err = s.err := rfl
@[simp] theorem State.placeByte_csum (s : State) (i : Addr) (b : Byte) : (s.placeByte i b).csum = s.csum := rfl
@[simp] theorem State.placeByte_addr (s : State) (i : Addr) (b : Byte) : (s.placeByte i b).addr = s.addr := rfl
@[simp] theorem State.placeByte_pcur (s : State) (i : Addr) (b : Byte) : (s.placeByte i b).pcur = s.pcur := rfl
@[simp] theorem State.placeByte_lenl (s : State) (i : Addr) (b : Byte) : (s.placeByte i b).lenl = s.lenl := rfl
@[simp] theorem State.placeByte_blen (s : State) (i : Addr) (b : Byte) : (s.placeByte i b).blen = s.blen := rfl
@[simp] theorem State.placeByte_bidx (s : State) (i : Addr) (b : Byte) : (s.placeByte i b).bidx = s.bidx := rfl
@[simp] theorem State.placeByte_shreg (s : State) (i : Addr) (b : Byte) : (s.placeByte i b).shreg = s.shreg := rfl
@[simp] theorem State.placeByte_bitpos (s : State) (i : Addr) (b : Byte) : (s.placeByte i b).bitpos = s.bitpos := rfl
@[simp] theorem State.placeByte_half (s : State) (i : Addr) (b : Byte) : (s.placeByte i b).half = s.half := rfl
@[simp] theorem State.placeByte_timer (s : State) (i : Addr) (b : Byte) : (s.placeByte i b).timer = s.timer := rfl
@[simp] theorem State.placeByte_payload (s : State) (i : Addr) (b : Byte) : (s.placeByte i b).payload = s.payload.set i.toNat b := rfl
@[simp] theorem State.placeByte_inputs (s : State) (i : Addr) (b : Byte) : (s.placeByte i b).inputs = s.inputs := rfl
@[simp] theorem State.placeByte_byteTrace (s : State) (i : Addr) (b : Byte) : (s.placeByte i b).byteTrace = s.byteTrace := rfl
@[simp] theorem State.placeByte_bitTrace (s : State) (i : Addr) (b : Byte) : (s.placeByte i b).bitTrace = s.bitTrace := rfl
@[simp] theorem State.placeByte_lTrace (s : State) (i : Addr) (b : Byte) : (s.placeByte i b).lTrace = s.lTrace := rfl
@[simp] theorem State.placeByte_live (s : State) (i : Addr) (b : Byte) : (s.placeByte i b).live = s.live := rfl
@[simp] theorem State.placeByte_powerLosses (s : State) (i : Addr) (b : Byte) : (s.placeByte i b).powerLosses = s.powerLosses := rfl

/-! ### `takeCfgError` -/

@[simp] theorem State.takeCfgError_line (s : State) : (s.takeCfgError).line = s.line := rfl
@[simp] theorem State.takeCfgError_phase (s : State) : (s.takeCfgError).phase = .idle := rfl
@[simp] theorem State.takeCfgError_err (s : State) : (s.takeCfgError).err = true := rfl
@[simp] theorem State.takeCfgError_csum (s : State) : (s.takeCfgError).csum = s.csum := rfl
@[simp] theorem State.takeCfgError_addr (s : State) : (s.takeCfgError).addr = s.addr := rfl
@[simp] theorem State.takeCfgError_pcur (s : State) : (s.takeCfgError).pcur = s.pcur := rfl
@[simp] theorem State.takeCfgError_lenl (s : State) : (s.takeCfgError).lenl = s.lenl := rfl
@[simp] theorem State.takeCfgError_blen (s : State) : (s.takeCfgError).blen = s.blen := rfl
@[simp] theorem State.takeCfgError_bidx (s : State) : (s.takeCfgError).bidx = s.bidx := rfl
@[simp] theorem State.takeCfgError_shreg (s : State) : (s.takeCfgError).shreg = s.shreg := rfl
@[simp] theorem State.takeCfgError_bitpos (s : State) : (s.takeCfgError).bitpos = s.bitpos := rfl
@[simp] theorem State.takeCfgError_half (s : State) : (s.takeCfgError).half = s.half := rfl
@[simp] theorem State.takeCfgError_timer (s : State) : (s.takeCfgError).timer = s.timer := rfl
@[simp] theorem State.takeCfgError_payload (s : State) : (s.takeCfgError).payload = s.payload := rfl
@[simp] theorem State.takeCfgError_inputs (s : State) : (s.takeCfgError).inputs = s.inputs := rfl
@[simp] theorem State.takeCfgError_byteTrace (s : State) : (s.takeCfgError).byteTrace = s.byteTrace := rfl
@[simp] theorem State.takeCfgError_bitTrace (s : State) : (s.takeCfgError).bitTrace = s.bitTrace := rfl
@[simp] theorem State.takeCfgError_lTrace (s : State) : (s.takeCfgError).lTrace = s.lTrace := rfl
@[simp] theorem State.takeCfgError_live (s : State) : (s.takeCfgError).live = s.live := rfl
@[simp] theorem State.takeCfgError_powerLosses (s : State) : (s.takeCfgError).powerLosses = s.powerLosses := rfl

/-! ### `leaveCfgError` -/

@[simp] theorem State.leaveCfgError_line (s : State) : (s.leaveCfgError).line = s.line := rfl
@[simp] theorem State.leaveCfgError_phase (s : State) : (s.leaveCfgError).phase = s.phase := rfl
@[simp] theorem State.leaveCfgError_err (s : State) : (s.leaveCfgError).err = false := rfl
@[simp] theorem State.leaveCfgError_csum (s : State) : (s.leaveCfgError).csum = s.csum := rfl
@[simp] theorem State.leaveCfgError_addr (s : State) : (s.leaveCfgError).addr = s.addr := rfl
@[simp] theorem State.leaveCfgError_pcur (s : State) : (s.leaveCfgError).pcur = s.pcur := rfl
@[simp] theorem State.leaveCfgError_lenl (s : State) : (s.leaveCfgError).lenl = s.lenl := rfl
@[simp] theorem State.leaveCfgError_blen (s : State) : (s.leaveCfgError).blen = s.blen := rfl
@[simp] theorem State.leaveCfgError_bidx (s : State) : (s.leaveCfgError).bidx = s.bidx := rfl
@[simp] theorem State.leaveCfgError_shreg (s : State) : (s.leaveCfgError).shreg = s.shreg := rfl
@[simp] theorem State.leaveCfgError_bitpos (s : State) : (s.leaveCfgError).bitpos = s.bitpos := rfl
@[simp] theorem State.leaveCfgError_half (s : State) : (s.leaveCfgError).half = s.half := rfl
@[simp] theorem State.leaveCfgError_timer (s : State) : (s.leaveCfgError).timer = s.timer := rfl
@[simp] theorem State.leaveCfgError_payload (s : State) : (s.leaveCfgError).payload = s.payload := rfl
@[simp] theorem State.leaveCfgError_inputs (s : State) : (s.leaveCfgError).inputs = s.inputs := rfl
@[simp] theorem State.leaveCfgError_byteTrace (s : State) : (s.leaveCfgError).byteTrace = s.byteTrace := rfl
@[simp] theorem State.leaveCfgError_bitTrace (s : State) : (s.leaveCfgError).bitTrace = s.bitTrace := rfl
@[simp] theorem State.leaveCfgError_lTrace (s : State) : (s.leaveCfgError).lTrace = s.lTrace := rfl
@[simp] theorem State.leaveCfgError_live (s : State) : (s.leaveCfgError).live = s.live := rfl
@[simp] theorem State.leaveCfgError_powerLosses (s : State) : (s.leaveCfgError).powerLosses = s.powerLosses := rfl

/-! ### `enterFirst` -/

@[simp] theorem State.enterFirst_line (s : State) (p : Phase) : (s.enterFirst p).line = s.line := rfl
@[simp] theorem State.enterFirst_phase (s : State) (p : Phase) : (s.enterFirst p).phase = p := rfl
@[simp] theorem State.enterFirst_err (s : State) (p : Phase) : (s.enterFirst p).err = s.err := rfl
@[simp] theorem State.enterFirst_csum (s : State) (p : Phase) : (s.enterFirst p).csum = s.csum := rfl
@[simp] theorem State.enterFirst_addr (s : State) (p : Phase) : (s.enterFirst p).addr = s.addr := rfl
@[simp] theorem State.enterFirst_pcur (s : State) (p : Phase) : (s.enterFirst p).pcur = s.pcur := rfl
@[simp] theorem State.enterFirst_lenl (s : State) (p : Phase) : (s.enterFirst p).lenl = s.lenl := rfl
@[simp] theorem State.enterFirst_blen (s : State) (p : Phase) : (s.enterFirst p).blen = s.blen := rfl
@[simp] theorem State.enterFirst_bidx (s : State) (p : Phase) : (s.enterFirst p).bidx = 0 := rfl
@[simp] theorem State.enterFirst_shreg (s : State) (p : Phase) : (s.enterFirst p).shreg = s.shreg := rfl
@[simp] theorem State.enterFirst_bitpos (s : State) (p : Phase) : (s.enterFirst p).bitpos = s.bitpos := rfl
@[simp] theorem State.enterFirst_half (s : State) (p : Phase) : (s.enterFirst p).half = s.half := rfl
@[simp] theorem State.enterFirst_timer (s : State) (p : Phase) : (s.enterFirst p).timer = s.timer := rfl
@[simp] theorem State.enterFirst_payload (s : State) (p : Phase) : (s.enterFirst p).payload = s.payload := rfl
@[simp] theorem State.enterFirst_inputs (s : State) (p : Phase) : (s.enterFirst p).inputs = s.inputs := rfl
@[simp] theorem State.enterFirst_byteTrace (s : State) (p : Phase) : (s.enterFirst p).byteTrace = s.byteTrace := rfl
@[simp] theorem State.enterFirst_bitTrace (s : State) (p : Phase) : (s.enterFirst p).bitTrace = s.bitTrace := rfl
@[simp] theorem State.enterFirst_lTrace (s : State) (p : Phase) : (s.enterFirst p).lTrace = s.lTrace := rfl
@[simp] theorem State.enterFirst_live (s : State) (p : Phase) : (s.enterFirst p).live = s.live := rfl
@[simp] theorem State.enterFirst_powerLosses (s : State) (p : Phase) : (s.enterFirst p).powerLosses = s.powerLosses := rfl

/-! ### `nextIndex` -/

@[simp] theorem State.nextIndex_line (s : State) : (s.nextIndex).line = s.line := rfl
@[simp] theorem State.nextIndex_phase (s : State) : (s.nextIndex).phase = s.phase := rfl
@[simp] theorem State.nextIndex_err (s : State) : (s.nextIndex).err = s.err := rfl
@[simp] theorem State.nextIndex_csum (s : State) : (s.nextIndex).csum = s.csum := rfl
@[simp] theorem State.nextIndex_addr (s : State) : (s.nextIndex).addr = s.addr := rfl
@[simp] theorem State.nextIndex_pcur (s : State) : (s.nextIndex).pcur = s.pcur := rfl
@[simp] theorem State.nextIndex_lenl (s : State) : (s.nextIndex).lenl = s.lenl := rfl
@[simp] theorem State.nextIndex_blen (s : State) : (s.nextIndex).blen = s.blen := rfl
@[simp] theorem State.nextIndex_bidx (s : State) : (s.nextIndex).bidx = s.bidx + 1 := rfl
@[simp] theorem State.nextIndex_shreg (s : State) : (s.nextIndex).shreg = s.shreg := rfl
@[simp] theorem State.nextIndex_bitpos (s : State) : (s.nextIndex).bitpos = s.bitpos := rfl
@[simp] theorem State.nextIndex_half (s : State) : (s.nextIndex).half = s.half := rfl
@[simp] theorem State.nextIndex_timer (s : State) : (s.nextIndex).timer = s.timer := rfl
@[simp] theorem State.nextIndex_payload (s : State) : (s.nextIndex).payload = s.payload := rfl
@[simp] theorem State.nextIndex_inputs (s : State) : (s.nextIndex).inputs = s.inputs := rfl
@[simp] theorem State.nextIndex_byteTrace (s : State) : (s.nextIndex).byteTrace = s.byteTrace := rfl
@[simp] theorem State.nextIndex_bitTrace (s : State) : (s.nextIndex).bitTrace = s.bitTrace := rfl
@[simp] theorem State.nextIndex_lTrace (s : State) : (s.nextIndex).lTrace = s.lTrace := rfl
@[simp] theorem State.nextIndex_live (s : State) : (s.nextIndex).live = s.live := rfl
@[simp] theorem State.nextIndex_powerLosses (s : State) : (s.nextIndex).powerLosses = s.powerLosses := rfl

/-! ### `endHighHalf` -/

@[simp] theorem State.endHighHalf_line (s : State) (c : Config.Timing) : (s.endHighHalf c).line = false := rfl
@[simp] theorem State.endHighHalf_phase (s : State) (c : Config.Timing) : (s.endHighHalf c).phase = s.phase := rfl
@[simp] theorem State.endHighHalf_err (s : State) (c : Config.Timing) : (s.endHighHalf c).err = s.err := rfl
@[simp] theorem State.endHighHalf_csum (s : State) (c : Config.Timing) : (s.endHighHalf c).csum = s.csum := rfl
@[simp] theorem State.endHighHalf_addr (s : State) (c : Config.Timing) : (s.endHighHalf c).addr = s.addr := rfl
@[simp] theorem State.endHighHalf_pcur (s : State) (c : Config.Timing) : (s.endHighHalf c).pcur = s.pcur := rfl
@[simp] theorem State.endHighHalf_lenl (s : State) (c : Config.Timing) : (s.endHighHalf c).lenl = s.lenl := rfl
@[simp] theorem State.endHighHalf_blen (s : State) (c : Config.Timing) : (s.endHighHalf c).blen = s.blen := rfl
@[simp] theorem State.endHighHalf_bidx (s : State) (c : Config.Timing) : (s.endHighHalf c).bidx = s.bidx := rfl
@[simp] theorem State.endHighHalf_shreg (s : State) (c : Config.Timing) : (s.endHighHalf c).shreg = s.shreg := rfl
@[simp] theorem State.endHighHalf_bitpos (s : State) (c : Config.Timing) : (s.endHighHalf c).bitpos = s.bitpos := rfl
@[simp] theorem State.endHighHalf_half (s : State) (c : Config.Timing) : (s.endHighHalf c).half = true := rfl
@[simp] theorem State.endHighHalf_timer (s : State) (c : Config.Timing) : (s.endHighHalf c).timer = bitPeriods c s.currentBit := rfl
@[simp] theorem State.endHighHalf_payload (s : State) (c : Config.Timing) : (s.endHighHalf c).payload = s.payload := rfl
@[simp] theorem State.endHighHalf_inputs (s : State) (c : Config.Timing) : (s.endHighHalf c).inputs = s.inputs := rfl
@[simp] theorem State.endHighHalf_byteTrace (s : State) (c : Config.Timing) : (s.endHighHalf c).byteTrace = s.byteTrace := rfl
@[simp] theorem State.endHighHalf_bitTrace (s : State) (c : Config.Timing) : (s.endHighHalf c).bitTrace = s.bitTrace := rfl
@[simp] theorem State.endHighHalf_lTrace (s : State) (c : Config.Timing) : (s.endHighHalf c).lTrace = s.lTrace ++ [⟨true, bitDur s.currentBit⟩] := rfl
@[simp] theorem State.endHighHalf_live (s : State) (c : Config.Timing) : (s.endHighHalf c).live = s.live := rfl
@[simp] theorem State.endHighHalf_powerLosses (s : State) (c : Config.Timing) : (s.endHighHalf c).powerLosses = s.powerLosses := rfl

/-! ### `recordBit` -/

@[simp] theorem State.recordBit_line (s : State) : (s.recordBit).line = s.line := rfl
@[simp] theorem State.recordBit_phase (s : State) : (s.recordBit).phase = s.phase := rfl
@[simp] theorem State.recordBit_err (s : State) : (s.recordBit).err = s.err := rfl
@[simp] theorem State.recordBit_csum (s : State) : (s.recordBit).csum = s.csum := rfl
@[simp] theorem State.recordBit_addr (s : State) : (s.recordBit).addr = s.addr := rfl
@[simp] theorem State.recordBit_pcur (s : State) : (s.recordBit).pcur = s.pcur := rfl
@[simp] theorem State.recordBit_lenl (s : State) : (s.recordBit).lenl = s.lenl := rfl
@[simp] theorem State.recordBit_blen (s : State) : (s.recordBit).blen = s.blen := rfl
@[simp] theorem State.recordBit_bidx (s : State) : (s.recordBit).bidx = s.bidx := rfl
@[simp] theorem State.recordBit_shreg (s : State) : (s.recordBit).shreg = s.shreg := rfl
@[simp] theorem State.recordBit_bitpos (s : State) : (s.recordBit).bitpos = s.bitpos := rfl
@[simp] theorem State.recordBit_half (s : State) : (s.recordBit).half = s.half := rfl
@[simp] theorem State.recordBit_timer (s : State) : (s.recordBit).timer = s.timer := rfl
@[simp] theorem State.recordBit_payload (s : State) : (s.recordBit).payload = s.payload := rfl
@[simp] theorem State.recordBit_inputs (s : State) : (s.recordBit).inputs = s.inputs := rfl
@[simp] theorem State.recordBit_byteTrace (s : State) : (s.recordBit).byteTrace = s.byteTrace := rfl
@[simp] theorem State.recordBit_bitTrace (s : State) : (s.recordBit).bitTrace = s.bitTrace ++ [s.currentBit] := rfl
@[simp] theorem State.recordBit_lTrace (s : State) : (s.recordBit).lTrace = s.lTrace ++ [⟨false, bitDur s.currentBit⟩] := rfl
@[simp] theorem State.recordBit_live (s : State) : (s.recordBit).live = s.live := rfl
@[simp] theorem State.recordBit_powerLosses (s : State) : (s.recordBit).powerLosses = s.powerLosses := rfl

/-! ### `withInputs` -/

@[simp] theorem State.withInputs_line (s : State) (xs : List Stimulus) : (s.withInputs xs).line = s.line := rfl
@[simp] theorem State.withInputs_phase (s : State) (xs : List Stimulus) : (s.withInputs xs).phase = s.phase := rfl
@[simp] theorem State.withInputs_err (s : State) (xs : List Stimulus) : (s.withInputs xs).err = s.err := rfl
@[simp] theorem State.withInputs_csum (s : State) (xs : List Stimulus) : (s.withInputs xs).csum = s.csum := rfl
@[simp] theorem State.withInputs_addr (s : State) (xs : List Stimulus) : (s.withInputs xs).addr = s.addr := rfl
@[simp] theorem State.withInputs_pcur (s : State) (xs : List Stimulus) : (s.withInputs xs).pcur = s.pcur := rfl
@[simp] theorem State.withInputs_lenl (s : State) (xs : List Stimulus) : (s.withInputs xs).lenl = s.lenl := rfl
@[simp] theorem State.withInputs_blen (s : State) (xs : List Stimulus) : (s.withInputs xs).blen = s.blen := rfl
@[simp] theorem State.withInputs_bidx (s : State) (xs : List Stimulus) : (s.withInputs xs).bidx = s.bidx := rfl
@[simp] theorem State.withInputs_shreg (s : State) (xs : List Stimulus) : (s.withInputs xs).shreg = s.shreg := rfl
@[simp] theorem State.withInputs_bitpos (s : State) (xs : List Stimulus) : (s.withInputs xs).bitpos = s.bitpos := rfl
@[simp] theorem State.withInputs_half (s : State) (xs : List Stimulus) : (s.withInputs xs).half = s.half := rfl
@[simp] theorem State.withInputs_timer (s : State) (xs : List Stimulus) : (s.withInputs xs).timer = s.timer := rfl
@[simp] theorem State.withInputs_payload (s : State) (xs : List Stimulus) : (s.withInputs xs).payload = s.payload := rfl
@[simp] theorem State.withInputs_inputs (s : State) (xs : List Stimulus) : (s.withInputs xs).inputs = xs := rfl
@[simp] theorem State.withInputs_byteTrace (s : State) (xs : List Stimulus) : (s.withInputs xs).byteTrace = s.byteTrace := rfl
@[simp] theorem State.withInputs_bitTrace (s : State) (xs : List Stimulus) : (s.withInputs xs).bitTrace = s.bitTrace := rfl
@[simp] theorem State.withInputs_lTrace (s : State) (xs : List Stimulus) : (s.withInputs xs).lTrace = s.lTrace := rfl
@[simp] theorem State.withInputs_live (s : State) (xs : List Stimulus) : (s.withInputs xs).live = s.live := rfl
@[simp] theorem State.withInputs_powerLosses (s : State) (xs : List Stimulus) : (s.withInputs xs).powerLosses = s.powerLosses := rfl
@[simp] theorem State.withInputs_busy (s : State) (xs : List Stimulus) : (s.withInputs xs).busy = s.busy := rfl
@[simp] theorem State.withInputs_done (s : State) (xs : List Stimulus) : (s.withInputs xs).done = s.done := rfl
@[simp] theorem State.withInputs_currentBit (s : State) (xs : List Stimulus) : (s.withInputs xs).currentBit = s.currentBit := rfl
@[simp] theorem State.withInputs_pAddr (s : State) (xs : List Stimulus) : (s.withInputs xs).pAddr = s.pAddr := rfl
@[simp] theorem State.withInputs_wantsData (s : State) (xs : List Stimulus) : (s.withInputs xs).wantsData = s.wantsData := rfl
@[simp] theorem State.withInputs_pcurAfter (s : State) (xs : List Stimulus) : (s.withInputs xs).pcurAfter = s.pcurAfter := rfl
@[simp] theorem State.withInputs_addrAfter (s : State) (xs : List Stimulus) : (s.withInputs xs).addrAfter = s.addrAfter := rfl
@[simp] theorem State.withInputs_nextBlen (s : State) (xs : List Stimulus) : (s.withInputs xs).nextBlen = s.nextBlen := rfl
@[simp] theorem State.withInputs_memRead (s : State) (xs : List Stimulus) : (s.withInputs xs).memRead = s.memRead := rfl
@[simp] theorem State.withInputs_payloadAt (s : State) (xs : List Stimulus) : (s.withInputs xs).payloadAt = s.payloadAt := rfl
@[simp] theorem State.withInputs_dataIndex (s : State) (xs : List Stimulus) : (s.withInputs xs).dataIndex = s.dataIndex := rfl
@[simp] theorem State.withInputs_dataByte (s : State) (xs : List Stimulus) : (s.withInputs xs).dataByte = s.dataByte := rfl
@[simp] theorem State.withInputs_sampleData (s : State) (xs : List Stimulus) : (s.withInputs xs).sampleData = s.sampleData := rfl
@[simp] theorem State.withInputs_inputs_self (s : State) : s.withInputs s.inputs = s := rfl
@[simp] theorem State.withInputs_withInputs (s : State) (xs ys : List Stimulus) :
    (s.withInputs xs).withInputs ys = s.withInputs ys := rfl

/-! ### `recordByte` -/

@[simp] theorem State.recordByte_line (s : State) : (s.recordByte).line = s.line := rfl
@[simp] theorem State.recordByte_phase (s : State) : (s.recordByte).phase = s.phase := rfl
@[simp] theorem State.recordByte_err (s : State) : (s.recordByte).err = s.err := rfl
@[simp] theorem State.recordByte_csum (s : State) : (s.recordByte).csum = s.csum := rfl
@[simp] theorem State.recordByte_addr (s : State) : (s.recordByte).addr = s.addr := rfl
@[simp] theorem State.recordByte_pcur (s : State) : (s.recordByte).pcur = s.pcur := rfl
@[simp] theorem State.recordByte_lenl (s : State) : (s.recordByte).lenl = s.lenl := rfl
@[simp] theorem State.recordByte_blen (s : State) : (s.recordByte).blen = s.blen := rfl
@[simp] theorem State.recordByte_bidx (s : State) : (s.recordByte).bidx = s.bidx := rfl
@[simp] theorem State.recordByte_shreg (s : State) : (s.recordByte).shreg = s.shreg := rfl
@[simp] theorem State.recordByte_bitpos (s : State) : (s.recordByte).bitpos = s.bitpos := rfl
@[simp] theorem State.recordByte_half (s : State) : (s.recordByte).half = s.half := rfl
@[simp] theorem State.recordByte_timer (s : State) : (s.recordByte).timer = s.timer := rfl
@[simp] theorem State.recordByte_payload (s : State) : (s.recordByte).payload = s.payload := rfl
@[simp] theorem State.recordByte_inputs (s : State) : (s.recordByte).inputs = s.inputs := rfl
@[simp] theorem State.recordByte_byteTrace (s : State) : (s.recordByte).byteTrace = s.byteTrace ++ [s.shreg] := rfl
@[simp] theorem State.recordByte_bitTrace (s : State) : (s.recordByte).bitTrace = s.bitTrace := rfl
@[simp] theorem State.recordByte_lTrace (s : State) : (s.recordByte).lTrace = s.lTrace := rfl
@[simp] theorem State.recordByte_live (s : State) : (s.recordByte).live = s.live := rfl
@[simp] theorem State.recordByte_powerLosses (s : State) : (s.recordByte).powerLosses = s.powerLosses := rfl

end Sys2Proof.Machine
end

