-- ==== Sys2Proof/Laws/Ops.lean ====
section
/-! SUPPORT. What each shared operation of the three layers does, said once. -/

namespace Sys2Proof.Machine

/-! ### Words and sums -/

/-- R14: `neg8(a) = (256 - a) mod 256`. -/
theorem neg8_toNat (a : Byte) : (neg8 a).toNat = (256 - a.toNat) % 256 := by
  simp [neg8, BitVec.toNat_neg]

/-- R14: `a +8 neg8(a) = 0`. -/
theorem add_neg8 (a : Byte) : a + neg8 a = 0 := by
  simp [neg8]

@[simp] theorem sum8_nil : sum8 [] = 0 := rfl

theorem sum8_foldl (acc : Byte) (l : List Byte) : l.foldl (· + ·) acc = acc + sum8 l := by
  induction l generalizing acc with
  | nil => simp [sum8]
  | cons b l ih =>
    have := ih (acc + b)
    have h0 := ih (0 + b)
    simp only [sum8, List.foldl_cons] at *
    rw [this, h0]
    simp [add_assoc]

theorem sum8_cons (b : Byte) (l : List Byte) : sum8 (b :: l) = b + sum8 l := by
  have := sum8_foldl (0 + b) l
  simpa [sum8] using this

theorem sum8_append (l r : List Byte) : sum8 (l ++ r) = sum8 l + sum8 r := by
  induction l with
  | nil => simp [sum8]
  | cons b l ih => rw [List.cons_append, sum8_cons, sum8_cons, ih, add_assoc]

/-- R61: the transfer fits below 65536. -/
@[simp] theorem fitsTarget_iff (base : Addr) (len : Len) :
    fitsTarget base len = true ↔ base.toNat + len.toNat ≤ 65536 :=
  decide_eq_true_iff

@[simp] theorem fitsTarget_eq_false (base : Addr) (len : Len) :
    fitsTarget base len = false ↔ 65536 < base.toNat + len.toNat := by
  rw [← Bool.not_eq_true, fitsTarget_iff, Nat.not_le]

/-! ### Bits and bytes -/

/-- What sending bits does: nothing for no bits; otherwise the line ends low, in a low half at its last period, and the
traces grow by the bits and their pulse pairs. -/
theorem State.sendBits_eq (s : State) (v : Bool) (bits : List Bool) :
    s.sendBits (v :: bits) =
      { s with
        line := false, half := true, timer := 1, bitTrace := s.bitTrace ++ (v :: bits)
        lTrace := s.lTrace ++ (v :: bits).flatMap pulse } := by
  induction bits generalizing s v with
  | nil => simp [State.sendBits, State.sendBit, State.drive, pulse]
  | cons w bits ih =>
    have := ih (s.sendBit v) w
    simp only [State.sendBits, List.foldl_cons] at this ⊢
    rw [this]
    simp [State.sendBit, State.drive, pulse]

/-- What `SEND_BYTE` does (R111), with the lower layers' registers as the clocked machine leaves them (log 3). -/
theorem State.sendByte_eq (s : State) (b : Byte) (count : Bool) :
    s.sendByte b count =
      { s with
        line := false, csum := accumulate s.csum b count, shreg := b, bitpos := 9, half := true, timer := 1
        byteTrace := s.byteTrace ++ [b], bitTrace := s.bitTrace ++ wireBits [b]
        lTrace := s.lTrace ++ wireSegments [b] } := by
  have h : frameBits b = frameBit b 0 :: (frameBits b).tail := by simp [frameBits, List.range_succ]
  simp only [State.sendByte, wireBits, wireSegments, List.flatMap_cons, List.flatMap_nil, List.append_nil]
  rw [h, State.sendBits_eq]

/-- What sending a non-empty run of bytes does. -/
theorem State.sendBytes_eq (s : State) (b : Byte) (bytes : List Byte) (count : Bool) :
    s.sendBytes (b :: bytes) count =
      { s with
        line := false, csum := if count then s.csum + sum8 (b :: bytes) else s.csum
        shreg := (b :: bytes).getLast (List.cons_ne_nil b bytes), bitpos := 9, half := true, timer := 1
        byteTrace := s.byteTrace ++ (b :: bytes), bitTrace := s.bitTrace ++ wireBits (b :: bytes)
        lTrace := s.lTrace ++ wireSegments (b :: bytes) } := by
  induction bytes generalizing s b with
  | nil => cases count <;> simp [State.sendBytes, State.sendByte_eq, accumulate, sum8]
  | cons d bytes ih =>
    have := ih (s.sendByte b count) d
    simp only [State.sendBytes, List.foldl_cons] at this ⊢
    rw [this, State.sendByte_eq]
    cases count <;> simp [accumulate, sum8_cons, wireBits, wireSegments, add_assoc]

/-- Sending no bytes does nothing. -/
theorem State.sendBytes_nil (s : State) (count : Bool) : s.sendBytes [] count = s := rfl

/-- What sending some bytes leaves alone, whether there are any or not. -/
theorem State.sendBytes_frame (s : State) (bytes : List Byte) (count : Bool) :
    ∃ l r p h n, s.sendBytes bytes count =
      { s with
        line := l, csum := if count then s.csum + sum8 bytes else s.csum, shreg := r, bitpos := p, half := h, timer := n
        byteTrace := s.byteTrace ++ bytes, bitTrace := s.bitTrace ++ wireBits bytes
        lTrace := s.lTrace ++ wireSegments bytes } := by
  cases bytes with
  | nil =>
    refine ⟨s.line, s.shreg, s.bitpos, s.half, s.timer, ?_⟩
    cases count <;> simp [State.sendBytes_nil, sum8, wireBits, wireSegments]
  | cons b bytes => exact ⟨_, _, _, _, _, State.sendBytes_eq s b bytes count⟩

@[simp] theorem wireBits_append (l r : List Byte) : wireBits (l ++ r) = wireBits l ++ wireBits r :=
  List.flatMap_append

@[simp] theorem wireSegments_append (l r : List Byte) : wireSegments (l ++ r) = wireSegments l ++ wireSegments r := by
  simp [wireSegments]

/-! ### Blocks -/

/-- The distance to the next multiple of 16 is 1 to 16, so the length of a block is too (R131). -/
theorem blockLength_range {remaining : Nat} (a : Nat) (h : 0 < remaining) :
    1 ≤ blockLength remaining a ∧ blockLength remaining a ≤ 16 ∧ blockLength remaining a ≤ remaining ∧
      a % 16 + blockLength remaining a ≤ 16 := by
  simp only [blockLength, Config.alignUnit]
  omega

/-- `BLEN` holds the length of the block without loss (R27, R131). -/
theorem State.nextBlen_toNat {s : State} (h : s.pcur.toNat < s.lenl.toNat) :
    s.nextBlen.toNat = blockLength (s.lenl.toNat - s.pcur.toNat) s.addr.toNat := by
  have := blockLength_range s.addr.toNat (show 0 < s.lenl.toNat - s.pcur.toNat by omega)
  simp only [State.nextBlen, BitVec.toNat_ofNat]
  omega

/-- With no payload left the length is 0; past the end of the payload that is the model's choice (log 22). -/
theorem State.nextBlen_of_le {s : State} (h : s.lenl.toNat ≤ s.pcur.toNat) : s.nextBlen = 0 := by
  simp [State.nextBlen, blockLength, Nat.sub_eq_zero_of_le h]

/-- The data bytes of the block that starts here. -/
def State.nextData (s : State) : List Byte :=
  (List.range s.nextBlen.toNat).map s.dataByte

/-- What `BLOCK` does (R130): one packet is sent, `CSUM` keeps the sum of its counted bytes, the cursors advance. -/
theorem State.sendBlock_eq (s : State) :
    s.sendBlock =
      { s with
        line := false, phase := .blockChecksum, csum := sum8 (countedBytes s.addr s.nextData)
        addr := s.addr + s.nextBlen.setWidth 16, pcur := BitVec.ofNat 17 (s.pcur.toNat + s.nextBlen.toNat)
        blen := s.nextBlen, shreg := neg8 (sum8 (countedBytes s.addr s.nextData)), bitpos := 9, half := true, timer := 1
        byteTrace := s.byteTrace ++ blockBytes s.addr s.nextData
        bitTrace := s.bitTrace ++ wireBits (blockBytes s.addr s.nextData)
        lTrace := s.lTrace ++ wireSegments (blockBytes s.addr s.nextData) } := by
  have hlen : s.nextData.length = s.nextBlen.toNat := by simp [State.nextData]
  obtain ⟨l, r, p, h, n, hd⟩ := State.sendBytes_frame
    (((((s.enter .blockStart).sendMark.sizeBlock.clearSum.enter .blockBody).sendLen).sendAddr)) s.nextData true
  have hdata : (((((s.enter .blockStart).sendMark.sizeBlock.clearSum.enter .blockBody).sendLen).sendAddr)).blockData =
      s.nextData := by
    simp [State.sendMark, State.sendLen, State.sendAddr, State.sendBytes_eq, markBytes, State.sendByte_eq,
      State.blockData, State.nextData, State.enter, State.sizeBlock, State.clearSum, State.nextBlen, State.dataByte,
      State.payloadAt, State.memRead, State.dataIndex]
  simp only [State.sendBlock]
  rw [State.sendData, hdata, hd]
  simp [State.sendMark, State.sendLen, State.sendAddr, State.sendBytes_eq, markBytes, State.sendByte_eq,
    State.enter, State.sizeBlock, State.clearSum, State.sendCheck, State.advance, State.addrAfter, State.pcurAfter,
    State.checkByte, State.lenB, State.addrHi, State.addrLo, accumulate, blockBytes, countedBytes, wireBits,
    wireSegments, hlen, sum8_cons, State.nextBlen, add_assoc]

end Sys2Proof.Machine
end

