-- ==== Sys2Proof/Laws/PerInstr.lean ====
section
/-! SUPPORT. Statements made operation by operation. -/

namespace Sys2Proof.Laws

/-- Log 2: the low byte of an operation word is the row number of its operation. -/
def WordSelector.Statement (i : Instr) : Prop :=
  (encode i).extractLsb' 0 8 = i.selector

/-- The low byte of any body above a selector is the selector. -/
theorem extract_selector (body : BitVec 40) (sel : BitVec 8) :
    BitVec.extractLsb' 0 8 (body ++ sel : BitVec 48) = sel := by
  refine BitVec.eq_of_getLsbD_eq fun k hk => ?_
  rw [BitVec.getLsbD_extractLsb', Nat.zero_add, BitVec.getLsbD_append]
  simp [hk]

theorem WordSelector.sendBit1 : WordSelector.Statement .sendBit1 :=
  extract_selector _ _

theorem WordSelector.sendBit0 : WordSelector.Statement .sendBit0 :=
  extract_selector _ _

theorem WordSelector.sendByte (b : Byte) (count : Bool) : WordSelector.Statement (.sendByte b count) :=
  extract_selector _ _

theorem WordSelector.preamble : WordSelector.Statement .preamble :=
  extract_selector _ _

theorem WordSelector.blkMark : WordSelector.Statement .blkMark :=
  extract_selector _ _

theorem WordSelector.blkClr : WordSelector.Statement .blkClr :=
  extract_selector _ _

theorem WordSelector.blkLen : WordSelector.Statement .blkLen :=
  extract_selector _ _

theorem WordSelector.blkAddr : WordSelector.Statement .blkAddr :=
  extract_selector _ _

theorem WordSelector.blkData : WordSelector.Statement .blkData :=
  extract_selector _ _

theorem WordSelector.blkCk : WordSelector.Statement .blkCk :=
  extract_selector _ _

theorem WordSelector.blkAdv : WordSelector.Statement .blkAdv :=
  extract_selector _ _

theorem WordSelector.block : WordSelector.Statement .block :=
  extract_selector _ _

theorem WordSelector.trailer : WordSelector.Statement .trailer :=
  extract_selector _ _

theorem WordSelector.transmit (base : Addr) (len : Len) : WordSelector.Statement (.transmit base len) :=
  extract_selector _ _

theorem WordSelector.start (base : Addr) (len : Len) : WordSelector.Statement (.start base len) :=
  extract_selector _ _

theorem WordSelector.reset : WordSelector.Statement .reset :=
  extract_selector _ _

end Sys2Proof.Laws
end

