-- ==== Sys2Proof/Laws/Sequencer.lean ====
section
/-! SUPPORT. What the clocked machine can do on one edge, said once: one inversion lemma per function of
`Machine/Sequencer.lean`. -/

namespace Sys2Proof.Machine

/-- The state on which `nextBlockOrTrailer` enters a phase. -/
theorem nextBlockOrTrailer_cases {s : State} {cursor : Nat} {r : NextByte}
    (h : nextBlockOrTrailer s cursor = .next r) :
    (cursor < s.lenl.toNat ∧ r = (s.enterFirst .blockStart, some (Config.markS, false))) ∨
      (cursor = s.lenl.toNat ∧ r = (s.enterFirst .trailer, some (Config.markS, false))) := by
  simp only [nextBlockOrTrailer, loadNext] at h
  split at h
  · exact .inl ⟨‹_›, by simpa using h.symm⟩
  · split at h
    · exact .inr ⟨‹_›, by simpa using h.symm⟩
    · cases h

/-- The rows of R141, one disjunct each. -/
theorem nextByte_cases {p : Pins} {s : State} {r : NextByte} (h : nextByte p s = .next r) :
    (s.phase = .preamble ∧ s.bidx = 0 ∧ r = (s.nextIndex, some (Config.preambleByte, false))) ∨
    (s.phase = .preamble ∧ s.bidx = 1 ∧ s.pcur.toNat < s.lenl.toNat ∧
      r = (s.enterFirst .blockStart, some (Config.markS, false))) ∨
    (s.phase = .preamble ∧ s.bidx = 1 ∧ s.pcur.toNat = s.lenl.toNat ∧
      r = (s.enterFirst .trailer, some (Config.markS, false))) ∨
    (s.phase = .blockStart ∧ s.bidx = 0 ∧ r = (s.nextIndex, some (Config.markBlock, false))) ∨
    (s.phase = .blockStart ∧ s.bidx = 1 ∧
      r = (s.sizeBlock.clearSum.enterFirst .blockBody, some (lenByte s.nextBlen.toNat, true))) ∨
    (s.phase = .blockBody ∧ s.bidx = 0 ∧ r = (s.nextIndex, some (s.addrHi, true))) ∨
    (s.phase = .blockBody ∧ s.bidx = 1 ∧ r = (s.nextIndex, some (s.addrLo, true))) ∨
    (s.phase = .blockBody ∧ 2 ≤ s.bidx.toNat ∧ s.bidx.toNat ≤ s.blen.toNat + 1 ∧
      s.dataIndex (s.bidx.toNat - 2) < s.lenl.toNat ∧ r = (s.nextIndex, some (s.sampleData p, true))) ∨
    (s.phase = .blockBody ∧ s.bidx.toNat = s.blen.toNat + 2 ∧
      r = (s.enterFirst .blockChecksum, some (s.checkByte, false))) ∨
    (s.phase = .blockChecksum ∧ s.bidx = 0 ∧ s.pcurAfter < s.lenl.toNat ∧
      r = (s.advance.enterFirst .blockStart, some (Config.markS, false))) ∨
    (s.phase = .blockChecksum ∧ s.bidx = 0 ∧ s.pcurAfter = s.lenl.toNat ∧
      r = (s.advance.enterFirst .trailer, some (Config.markS, false))) ∨
    (s.phase = .trailer ∧ s.bidx = 0 ∧ r = (s.nextIndex, some (Config.markEnd, false))) ∨
    (s.phase = .trailer ∧ s.bidx = 1 ∧ r = (s.enterFirst .done, none)) := by
  unfold nextByte at h
  split at h
  · rename_i hp
    split at h
    · cases h; simp_all
    · split at h
      · rcases nextBlockOrTrailer_cases h with ⟨hc, rfl⟩ | ⟨hc, rfl⟩ <;> simp_all
      · cases h
  · rename_i hp
    split at h
    · cases h; simp_all
    · split at h
      · cases h; simp_all [State.lenB, State.enterFirst, State.enter, State.clearSum, State.sizeBlock]
      · cases h
  · rename_i hp
    simp only [nextInBody] at h
    split at h
    · cases h; simp_all
    · split at h
      · cases h; simp_all
      · rename_i h0 h1
        have h2 : 2 ≤ s.bidx.toNat := by
          have h0' : s.bidx.toNat ≠ 0 := fun e => h0 (BitVec.eq_of_toNat_eq e)
          have h1' : s.bidx.toNat ≠ 1 := fun e => h1 (BitVec.eq_of_toNat_eq e)
          omega
        split at h
        · simp only [nextData] at h
          split at h
          · cases h
            exact .inr <| .inr <| .inr <| .inr <| .inr <| .inr <| .inr <| .inl ⟨hp, h2, ‹_›, ‹_›, rfl⟩
          · cases h
        · split at h
          · cases h
            exact .inr <| .inr <| .inr <| .inr <| .inr <| .inr <| .inr <| .inr <| .inl ⟨hp, ‹_›, rfl⟩
          · cases h
  · rename_i hp
    split at h
    · rcases nextBlockOrTrailer_cases h with ⟨hc, rfl⟩ | ⟨hc, rfl⟩ <;> simp_all
    · cases h
  · rename_i hp
    split at h
    · cases h; simp_all
    · split at h
      · cases h; simp_all
      · cases h
  · cases h
  · cases h

/-- What the edge on which a byte is over can do: load the byte that `Next` names, or end the transfer (R146). -/
theorem byteOver_cases {c : Config.Timing} {p : Pins} {s t : State} (h : byteOver c p s = .next t) :
    (∃ u b count, nextByte p s = .next (u, some (b, count)) ∧ t = u.load c b count) ∨
      nextByte p s = .next (t, none) := by
  unfold byteOver at h
  split at h
  · cases h; exact .inl ⟨_, _, _, ‹_›, rfl⟩
  · cases h; exact .inr ‹_›
  · cases h
  · cases h

/-- What an edge while busy can do: count down, end a high half, begin the next bit of the frame, or end a byte
(R146). -/
theorem busyTick_cases {c : Config.Timing} {p : Pins} {s t : State} (h : busyTick c p s = .next t) :
    s.bitpos.toNat ≤ 9 ∧
      ((1 < s.timer ∧ t = { s with timer := s.timer - 1 }) ∨
        (s.timer ≤ 1 ∧ s.half = false ∧ t = s.endHighHalf c) ∨
        (s.timer ≤ 1 ∧ s.half = true ∧ s.bitpos.toNat < 9 ∧ t = s.recordBit.nextFrameBit c) ∨
        (s.timer ≤ 1 ∧ s.half = true ∧ s.bitpos.toNat = 9 ∧ byteOver c p s.recordBit.recordByte = .next t)) := by
  unfold busyTick at h
  split at h
  · cases h
  · refine ⟨by omega, ?_⟩
    split at h
    · cases h; exact .inl ⟨‹_›, rfl⟩
    · split at h
      · cases h; exact .inr <| .inl ⟨by omega, ‹_›, rfl⟩
      · have hh : s.half = true := by simpa using ‹¬s.half = false›
        split at h
        · cases h; exact .inr <| .inr <| .inl ⟨by omega, hh, ‹_›, rfl⟩
        · exact .inr <| .inr <| .inr ⟨by omega, hh, by omega, h⟩

/-- A segment goes on: `TIMER` counts down (R107). -/
theorem busyTick_countdown {c : Config.Timing} {p : Pins} {s : State} (h9 : s.bitpos.toNat ≤ 9) (ht : 1 < s.timer) :
    busyTick c p s = .next { s with timer := s.timer - 1 } := by
  rw [busyTick, if_neg (by omega), if_pos ht]

/-- The high half ends (R107). -/
theorem busyTick_endHighHalf {c : Config.Timing} {p : Pins} {s : State} (h9 : s.bitpos.toNat ≤ 9) (ht : s.timer ≤ 1)
    (hh : s.half = false) : busyTick c p s = .next (s.endHighHalf c) := by
  rw [busyTick, if_neg (by omega), if_neg (by omega), if_pos hh]

/-- A bit ends and the next bit of the frame begins (R112). -/
theorem busyTick_nextFrameBit {c : Config.Timing} {p : Pins} {s : State} (h9 : s.bitpos.toNat < 9) (ht : s.timer ≤ 1)
    (hh : s.half = true) : busyTick c p s = .next (s.recordBit.nextFrameBit c) := by
  rw [busyTick, if_neg (by omega), if_neg (by omega), if_neg (by simp [hh]), if_pos h9]

/-- A byte ends (R141). -/
theorem busyTick_byteOver {c : Config.Timing} {p : Pins} {s : State} (h9 : s.bitpos = 9) (ht : s.timer ≤ 1)
    (hh : s.half = true) : busyTick c p s = byteOver c p s.recordBit.recordByte := by
  rw [busyTick, if_neg (by simp [h9]), if_neg (by omega), if_neg (by simp [hh]), if_neg (by simp [h9])]

/-- What one clock edge can do (R146, R164). -/
theorem tick_cases {c : Config.Timing} {p : Pins} {s t : State} (h : tick c p s = .next t) :
    (p.rst = true ∧ t = s.toReset) ∨
    (p.rst = false ∧ s.busy = true ∧ busyTick c p s = .next t) ∨
    (p.rst = false ∧ s.busy = false ∧ p.start = true ∧ fitsTarget p.base p.len = true ∧
      t = s.acceptStart c p.base p.len) ∨
    (p.rst = false ∧ s.busy = false ∧ p.start = true ∧ fitsTarget p.base p.len = false ∧ t = s.takeCfgError) ∨
    (p.rst = false ∧ s.busy = false ∧ p.start = false ∧ t = s) := by
  unfold tick at h
  split at h
  · cases h; exact .inl ⟨‹_›, rfl⟩
  · have hr : p.rst = false := by simpa using ‹¬p.rst = true›
    split at h
    · exact .inr <| .inl ⟨hr, ‹_›, h⟩
    · have hb : s.busy = false := by simpa using ‹¬s.busy = true›
      split at h
      · cases h
        simp only [State.startEdge, hb, Bool.false_eq_true, if_false]
        cases hf : fitsTarget p.base p.len with
        | true => exact .inr <| .inr <| .inl ⟨hr, trivial, ‹_›, rfl, by simp⟩
        | false => exact .inr <| .inr <| .inr <| .inl ⟨hr, trivial, ‹_›, rfl, by simp⟩
      · cases h; exact .inr <| .inr <| .inr <| .inr ⟨hr, hb, by simpa using ‹¬p.start = true›, rfl⟩

/-- While busy an edge reads nothing of its pins but `P_DATA` (R153). -/
theorem busyTick_pins (c : Config.Timing) {p q : Pins} (s : State) (h : p.pData = q.pData) :
    busyTick c p s = busyTick c q s := by
  have hn : ∀ t, nextByte p t = nextByte q t := fun t => by
    unfold nextByte nextInBody nextData State.sampleData
    rw [h]
  simp only [busyTick, byteOver, hn]

/-- `Next` leaves the schedule, the payload, `ERR` and `live` alone. -/
theorem nextByte_keeps {p : Pins} {s u : State} {o : Option (Byte × Bool)} (h : nextByte p s = .next (u, o)) :
    u.inputs = s.inputs ∧ u.payload = s.payload ∧ u.err = s.err ∧ u.live = s.live := by
  rcases nextByte_cases h with ⟨_, _, e⟩ | ⟨_, _, _, e⟩ | ⟨_, _, _, e⟩ | ⟨_, _, e⟩ | ⟨_, _, e⟩ | ⟨_, _, e⟩ | ⟨_, _, e⟩ |
      ⟨_, _, _, _, e⟩ | ⟨_, _, e⟩ | ⟨_, _, _, e⟩ | ⟨_, _, _, e⟩ | ⟨_, _, e⟩ | ⟨_, _, e⟩ <;>
    cases e <;> exact ⟨rfl, rfl, rfl, rfl⟩

/-- An edge while busy leaves the schedule, the payload, `ERR` and `live` alone. -/
theorem busyTick_keeps {c : Config.Timing} {p : Pins} {s t : State} (h : busyTick c p s = .next t) :
    t.inputs = s.inputs ∧ t.payload = s.payload ∧ t.err = s.err ∧ t.live = s.live := by
  obtain ⟨_, ⟨_, rfl⟩ | ⟨_, _, rfl⟩ | ⟨_, _, _, rfl⟩ | ⟨_, _, _, hb⟩⟩ := busyTick_cases h
  · exact ⟨rfl, rfl, rfl, rfl⟩
  · exact ⟨rfl, rfl, rfl, rfl⟩
  · exact ⟨rfl, rfl, rfl, rfl⟩
  · obtain ⟨u, b, count, hn, rfl⟩ | hn := byteOver_cases hb
    · have hk := nextByte_keeps (s := s.recordBit.recordByte) hn
      exact hk
    · exact nextByte_keeps (s := s.recordBit.recordByte) hn

/-- A clock edge leaves the schedule and the payload alone. -/
theorem tick_keeps {c : Config.Timing} {p : Pins} {s t : State} (h : tick c p s = .next t) :
    t.inputs = s.inputs ∧ t.payload = s.payload := by
  rcases tick_cases h with ⟨_, rfl⟩ | ⟨_, _, hb⟩ | ⟨_, _, _, _, rfl⟩ | ⟨_, _, _, _, rfl⟩ | ⟨_, _, _, rfl⟩
  · exact ⟨rfl, rfl⟩
  · exact ⟨(busyTick_keeps hb).1, (busyTick_keeps hb).2.1⟩
  · exact ⟨rfl, rfl⟩
  · exact ⟨rfl, rfl⟩
  · exact ⟨rfl, rfl⟩

end Sys2Proof.Machine
end

