-- ==== Sys2Proof/Laws/Step.lean ====
section
/-! SUPPORT. What one step can do, said once. -/

namespace Sys2Proof.Machine

/-- `s` with the first stimulus of its schedule taken away. -/
abbrev State.popped (s : State) : State :=
  s.withInputs s.inputs.tail

theorem State.popped_of_nil {s : State} (h : s.inputs = []) : s.popped = s := by
  have := State.withInputs_inputs_self s
  simpa [State.popped, h] using this

/-- The pins of the next step, when it is a clock edge: those of the schedule, or quiet ones when it is empty. -/
inductive EdgeNext (s : State) (p : Pins) : Prop where
  | scheduled (rest : List Stimulus) (h : s.inputs = .edge p :: rest)
  | quiet (h : s.inputs = []) (hp : p = .quiet)

/-- A step whose next stimulus is a clock edge is a tick. -/
theorem step_edge {s : State} {p : Pins} (h : EdgeNext s p) (hl : s.live = true) :
    step s = tick Config.timing p s.popped := by
  cases h with
  | scheduled rest h => simp [step, h, stimulate, edgeStep, hl, State.popped]
  | quiet h hp =>
    subst hp
    simp [step, h, edgeStep, hl, State.popped_of_nil h]

@[simp] theorem run_zero (s : State) : Host.Core.run Sys2Proof.core 0 s = .next s := rfl

/-- A run goes on from the next state of its first step. -/
theorem run_succ {s t : State} (h : step s = .next t) (k : Nat) :
    Host.Core.run Sys2Proof.core (k + 1) s = Host.Core.run Sys2Proof.core k t := by
  have h' : Sys2Proof.core.step s = .next t := h
  simp only [Host.Core.run, h']

/-- A run of two parts. -/
theorem run_add {s t : State} {j : Nat} (h : Host.Core.run Sys2Proof.core j s = .next t) (k : Nat) :
    Host.Core.run Sys2Proof.core (j + k) s = Host.Core.run Sys2Proof.core k t := by
  induction j generalizing s with
  | zero =>
    rw [run_zero] at h
    cases h
    rw [Nat.zero_add]
  | succ j ih =>
    cases hs : step s with
    | next u =>
      rw [run_succ hs] at h
      rw [Nat.add_right_comm, run_succ hs, ih h]
    | fault r =>
      have hs' : Sys2Proof.core.step s = .fault r := hs
      simp only [Host.Core.run, hs'] at h
      cases h
    | refused r =>
      have hs' : Sys2Proof.core.step s = .refused r := hs
      simp only [Host.Core.run, hs'] at h
      cases h

/-- What one step can do. -/
theorem step_cases {s t : State} (h : step s = .next t) :
    (∃ p, EdgeNext s p ∧ (s.live = true ∨ p.rst = true) ∧ tick Config.timing p s.popped = .next t) ∨
    (∃ i b rest, s.inputs = .place i b :: rest ∧ t = s.popped.placeByte i b) ∨
    (∃ rest, s.inputs = .powerLoss :: rest ∧ t = s.popped.losePower) ∨
    (∃ w i rest, s.inputs = .call w :: rest ∧ decode w = .ok i ∧ i.wellFormed = true ∧
      (s.live = true ∨ i = .reset) ∧ exec i s.popped = .next t) := by
  unfold step at h
  split at h
  · rename_i hi
    have hpop := State.popped_of_nil hi
    simp only [edgeStep] at h
    split at h
    · cases h
    · refine .inl ⟨.quiet, .quiet hi rfl, ?_, by rwa [hpop]⟩
      have := ‹¬(s.live = false ∧ Pins.quiet.rst = false)›
      simp only [not_and_or, Bool.not_eq_false] at this
      exact this
  · rename_i x rest hi
    have hpop : s.withInputs rest = s.popped := by simp [State.popped, hi]
    rw [hpop] at h
    cases x with
    | edge p =>
      simp only [stimulate, edgeStep] at h
      split at h
      · cases h
      · refine .inl ⟨p, .scheduled rest hi, ?_, h⟩
        have := ‹¬(s.popped.live = false ∧ p.rst = false)›
        simpa only [not_and_or, Bool.not_eq_false, State.withInputs_live] using this
    | place i b =>
      cases h
      exact .inr <| .inl ⟨i, b, rest, hi, rfl⟩
    | powerLoss =>
      cases h
      exact .inr <| .inr <| .inl ⟨rest, hi, rfl⟩
    | call w =>
      simp only [stimulate, callStep] at h
      split at h
      · rename_i i hd
        split at h
        · cases h
        · split at h
          · refine .inr <| .inr <| .inr ⟨w, i, rest, hi, hd, ‹_›, ?_, h⟩
            have := ‹¬(s.popped.live = false ∧ i ≠ .reset)›
            simpa only [not_and_or, Bool.not_eq_false, State.withInputs_live, ne_eq, not_not] using this
          · cases h
      · cases h

end Sys2Proof.Machine
end

