-- ==== Sys2Proof/Tests/Slice0.lean ====
section
/-! SUPPORT. The model's own tests, with values from the spec's test vectors (`spec/95_test_vectors.md`) and from
spec/opcode_table.json, and a witness for every statement that has hypotheses. -/

namespace Sys2Proof.Tests

open Sys2Proof.Machine

/-! ### Helpers -/

/-- What `f` reads after an outcome, if there is a next state. -/
def after {α : Type} (o : Host.Outcome State Fault Refusal) (f : State → α) : Option α :=
  match o with
  | .next t => some (f t)
  | .fault _ | .refused _ => none

/-- The refusal of an outcome. -/
def refusal (o : Host.Outcome State Fault Refusal) : Option Refusal :=
  match o with
  | .refused r => some r
  | .next _ | .fault _ => none

/-- A payload of the given bytes from index 0 on. -/
def payloadOf (bytes : List Byte) : Memory :=
  (List.range bytes.length).zip bytes

/-- A state whose next stimulus is the given one. -/
def facing (x : Stimulus) : State :=
  { State.reset with inputs := [x] }

/-- An edge with START. -/
def startPins (base : Addr) (len : Len) : Pins :=
  { Pins.quiet with start := true, base := base, len := len }

/-- A transfer of 16 bytes from 0x1008 at the last period of the stop bit of a byte (95 program P4, section 2.8). -/
def atByteEnd (phase : Phase) (bidx : BitVec 5) : State :=
  { State.reset with
    phase := phase, bidx := bidx, addr := 0x1008, lenl := 16, blen := 8, bitpos := 9, half := true, timer := 1
    payload := payloadOf [0, 1, 2, 3, 4, 5, 6, 7, 8, 9, 10, 11, 12, 13, 14, 15], inputs := [.edge .quiet] }

/-- What a row of section 2.8 names: phase, index, byte loaded, checksum. -/
def row (s : State) : Option (Phase × BitVec 5 × Byte × Byte) :=
  after (step s) fun t => (t.phase, t.bidx, t.shreg, t.csum)

/-- In the middle of a transfer of the reference payload, counting down. -/
def midByte : State :=
  { atByteEnd .blockBody 3 with bitpos := 4, timer := 2, half := false, line := true }

/-- After a block of the transfer of 16 bytes from 0x1008, about to send the second. -/
def secondBlock : State :=
  { atByteEnd .blockChecksum 0 with pcur := 8, addr := 0x1010 }

/-! ### Well-formedness -/

/-- 61441 bytes from 0x1000 do not fit (95 section 2.7). -/
theorem test_illFormed_transmit : (Instr.transmit 0x1000 61441).wellFormed = false := by decide

theorem test_wellFormed_boundary :
    (Instr.transmit 0x1000 61440).wellFormed = true ∧ (Instr.transmit 0 65536).wellFormed = true ∧
      (Instr.transmit 0xFFFF 2).wellFormed = false ∧ (Instr.start 0xFFFF 131071).wellFormed = true := by decide

theorem test_illFormed_call_refused :
    refusal (step (facing (.call (encode (.transmit 0x1000 61441))))) = some .illFormed := rfl

theorem test_undecodable_call_refused :
    refusal (step (facing (.call 0x11))) = some (.undecodable .unknownSelector) := rfl

/-! ### Decoding: one word for every operation (log 2). Wire bits are those of the table, first in bit 8. -/

theorem test_decode_sendBit1 : decode 0b01_00000001 = .ok .sendBit1 := rfl
theorem test_decode_sendBit0 : decode 0b01_00000010 = .ok .sendBit0 := rfl
theorem test_decode_sendByte : decode 0b01010100110_00000011 = .ok (.sendByte 0x53 false) := rfl
theorem test_decode_sendByte_counted : decode 0b11000000010_00000011 = .ok (.sendByte 0x01 true) := rfl
theorem test_decode_preamble : decode 0b1111111110_1111111110_00000100 = .ok .preamble := rfl
theorem test_decode_blkMark : decode 0b1001100010_1010100110_00000101 = .ok .blkMark := rfl
theorem test_decode_blkClr : decode 6 = .ok .blkClr := rfl
theorem test_decode_blkLen : decode 7 = .ok .blkLen := rfl
theorem test_decode_blkAddr : decode 8 = .ok .blkAddr := rfl
theorem test_decode_blkData : decode 9 = .ok .blkData := rfl
theorem test_decode_blkCk : decode 10 = .ok .blkCk := rfl
theorem test_decode_blkAdv : decode 11 = .ok .blkAdv := rfl
theorem test_decode_block : decode 12 = .ok .block := rfl
theorem test_decode_trailer : decode 0b1010010100_1010100110_00001101 = .ok .trailer := rfl
theorem test_decode_transmit : decode 0x0_00141008_0E = .ok (.transmit 0x1008 0x14) := rfl
theorem test_decode_start : decode 0x1_0000FFF8_0F = .ok (.start 0xFFF8 0x10000) := rfl
theorem test_decode_reset : decode 16 = .ok .reset := rfl
theorem test_decode_stray_bits : decode 0x100000000010 = .error .strayBits := rfl
theorem test_decode_bad_constant :
    decode 0b10_00000001 = .error .badPulse ∧ decode 0b1111111110_1111111111_00000100 = .error .badConstant := ⟨rfl, rfl⟩
theorem test_decode_bytes : decodeBytes [0x0F, 0xF8, 0xFF, 0x08, 0x00] = .ok (.start 0xFFF8 8) := rfl
theorem test_decodeTableWord : decodeTableWord 48 0x00141008_0E = some (.transmit 0x1008 0x14) := rfl

theorem test_withFetchWord_runs :
    after (step (State.reset.withFetchWord 8 16)) (·.live) = some true ∧
      after (step (State.reset.withFetchWord 24 0b01010100110_00000011)) (·.byteTrace) = some [0x53] := ⟨rfl, rfl⟩

/-! ### Wire formats -/

/-- 95 section 2.2: 0x01 and 0x80 show the bit order. -/
theorem test_frames :
    frameBits 0x01 = [false, true, false, false, false, false, false, false, false, true] ∧
      frameBits 0x80 = [false, false, false, false, false, false, false, false, true, true] := by decide

/-- 95 section 2.2: durations in microseconds at the reference timing, and in periods. -/
theorem test_frame_times :
    frameTime Config.tShortRef Config.tLongRef 0xEC = 11000 ∧ frameTime 1 4 0x31 = 56 ∧
      bytesTime 1 4 [0xFF, 0xFF, 0x53, 0x4A] = 158 := by decide

/-- 95 section 2.2: the segments of a 0xFF frame at one and four periods. -/
theorem test_levels :
    levels ⟨1, 4, by decide, by decide⟩ ([false, true].flatMap pulse) =
      [true, true, true, true, false, false, false, false, true, false] := by decide

/-- 95 section 2.6: blocks and bytes. -/
theorem test_counts :
    blockCount 0x1000 0 = 0 ∧ blockCount 0x100F 3 = 2 ∧ streamLength 0x1000 33 = 55 ∧
      streamLength 0x1000 61440 = 84484 := by decide

/-- 95 section 2.5 and program P6: the split at one below a boundary. -/
theorem test_split : split 0x100F 3 = [⟨0x100F, 0, 1⟩, ⟨0x1010, 1, 2⟩] := by decide

/-- 95 program P6. -/
theorem test_stream :
    stream 0x100F 3 (fun i => [0xDE, 0xAD, 0xBE].getD i 0) =
      [0xFF, 0xFF, 0x53, 0x31, 0x03, 0x10, 0x0F, 0xDE, 0x00, 0x53, 0x31, 0x04, 0x10, 0x10, 0xAD, 0xBE, 0x71, 0x53,
        0x4A] := by decide

/-- A block whose checksum byte is wrong by one is not accepted (R77). -/
theorem test_bad_checksum :
    decodeBlock [0x53, 0x31, 0x03, 0x10, 0x00, 0x01, 0xEB] = .error .badChecksum := rfl

/-! ### The operations -/

/-- 95 section 2.1. -/
theorem test_sendBit1 :
    after (exec .sendBit1 State.reset) (fun t => (t.lTrace, t.line, t.bitTrace)) =
      some ([⟨true, .short⟩, ⟨false, .short⟩], false, [true]) := rfl

theorem test_sendBit0 :
    after (exec .sendBit0 State.reset) (fun t => (t.lTrace, t.line, t.bitTrace)) =
      some ([⟨true, .long⟩, ⟨false, .long⟩], false, [false]) := rfl

/-- 95 section 2.3: the carry is dropped. -/
theorem test_sendByte_wraps :
    after (exec (.sendByte 0x20 true) { State.reset with csum := 0xF0 }) (fun t => (t.csum, t.byteTrace)) =
      some (0x10, [0x20]) := rfl

/-- 95 section 2.3: the checksum byte is not added; section 2.2: its frame. -/
theorem test_sendByte_uncounted :
    after (exec (.sendByte 0xEC false) { State.reset with csum := 0x14 }) (fun t => (t.csum, t.bitTrace)) =
      some (0x14, [false, false, false, true, true, false, true, true, true, true]) := rfl

/-- The table's bits of `PREAMBLE`. -/
theorem test_preamble :
    after (exec .preamble State.reset) (fun t => (t.byteTrace, t.bitTrace.length, t.csum)) =
      some ([0xFF, 0xFF], 20, 0) := rfl

/-- The table's bits of `BLK_MARK`. -/
theorem test_blkMark :
    after (exec .blkMark State.reset) (·.bitTrace) =
      some [false, true, true, false, false, true, false, true, false, true,
        false, true, false, false, false, true, true, false, false, true] := rfl

theorem test_blkClr :
    after (exec .blkClr { State.reset with csum := 0x77 }) (fun t => (t.csum, t.byteTrace)) = some (0, []) := rfl

theorem test_blkLen :
    after (exec .blkLen { State.reset with blen := 16 }) (fun t => (t.byteTrace, t.csum)) = some ([0x12], 0x12) := rfl

/-- 95 program P3, block 2: high byte first. -/
theorem test_blkAddr :
    after (exec .blkAddr { State.reset with addr := 0x1008, csum := 3 }) (fun t => (t.byteTrace, t.csum)) =
      some ([0x10, 0x08], 0x1B) := rfl

theorem test_blkData :
    after (exec .blkData { atByteEnd .blockBody 2 with blen := 2, pcur := 14, csum := 1 })
      (fun t => (t.byteTrace, t.csum)) = some ([14, 15], 30) := rfl

/-- 95 section 2.4: scenario 2's checksum byte. -/
theorem test_blkCk :
    after (exec .blkCk { State.reset with csum := 0x14 }) (fun t => (t.byteTrace, t.csum)) = some ([0xEC], 0x14) := rfl

theorem test_blkCk_zero :
    after (exec .blkCk State.reset) (fun t => (t.byteTrace, t.csum)) = some ([0], 0) := rfl

/-- 95 section 2.5: the last advance wraps. -/
theorem test_blkAdv :
    after (exec .blkAdv { State.reset with addr := 0xFFF8, blen := 8 }) (fun t => (t.addr, t.pcur)) =
      some (0, 8) := rfl

/-- 95 program P2, the source's block. -/
theorem test_block :
    after (exec .block { State.reset with addr := 0x1000, lenl := 1, payload := payloadOf [1], csum := 0x99 })
      (fun t => (t.byteTrace, t.csum, t.addr, t.pcur, t.blen)) =
      some ([0x53, 0x31, 0x03, 0x10, 0x00, 0x01, 0xEC], 0x14, 0x1001, 1, 1) := by decide +kernel

/-- 95 section 2.5: the first block ends at the boundary. -/
theorem test_block_aligned :
    after (exec .block (atByteEnd .preamble 1)) (fun t => (t.blen, t.addr, t.pcur)) = some (8, 0x1010, 8) := by decide +kernel

theorem test_trailer :
    after (exec .trailer State.reset) (·.byteTrace) = some [0x53, 0x4A] := rfl

/-- 95 program P5: the top of the address space. -/
theorem test_transmit :
    after (exec (.transmit 0xFFF8 8) { State.reset with payload := payloadOf [0x80, 0x7F, 0xFF, 0, 1, 2, 3, 4] })
      (fun t => (t.byteTrace, t.addr, t.csum, t.phase)) =
      some ([0xFF, 0xFF, 0x53, 0x31, 0x0A, 0xFF, 0xF8, 0x80, 0x7F, 0xFF, 0, 1, 2, 3, 4, 0xF7, 0x53, 0x4A], 0, 9,
        .done) := by decide +kernel

/-- 95 program P1: nothing but preamble and trailer, and `CSUM` is never written. -/
theorem test_transmit_empty :
    after (exec (.transmit 0x1000 0) { State.reset with csum := 0x55 }) (fun t => (t.byteTrace, t.csum, t.lTrace.length)) =
      some ([0xFF, 0xFF, 0x53, 0x4A], 0x55, 80) := by decide +kernel

/-- 95 section 2.7. -/
theorem test_start_accepted :
    after (exec (.start 0x1000 61440) { State.reset with err := true })
      (fun t => (t.phase, t.err, t.shreg, t.line, t.lenl)) = some (.preamble, false, 0xFF, true, 61440) := rfl

theorem test_start_refused :
    after (exec (.start 0x1000 61441) { State.reset with phase := .done })
      (fun t => (t.phase, t.err, t.done, t.byteTrace)) = some (.idle, true, false, []) := rfl

theorem test_reset :
    after (exec .reset midByte) (fun t => (t.phase, t.addr, t.bitpos, t.line, t.payload.length)) =
      some (.idle, 0, 0, false, 16) := rfl

/-! ### The clocked machine: the rows of 95 section 2.8 -/

theorem test_next_trailer_when_empty : row { atByteEnd .preamble 1 with lenl := 0 } = some (.trailer, 0, 0x53, 0) := rfl
theorem test_next_first_block : row (atByteEnd .preamble 1) = some (.blockStart, 0, 0x53, 0) := rfl
theorem test_next_length :
    row { atByteEnd .blockStart 1 with csum := 0x77 } = some (.blockBody, 0, 0x0A, 0x0A) := rfl
theorem test_next_addr_high : row (atByteEnd .blockBody 0) = some (.blockBody, 1, 0x10, 0x10) := rfl
theorem test_next_addr_low : row (atByteEnd .blockBody 1) = some (.blockBody, 2, 0x08, 0x08) := rfl
theorem test_next_first_data : row (atByteEnd .blockBody 2) = some (.blockBody, 3, 0, 0) := rfl
theorem test_next_last_data : row (atByteEnd .blockBody 9) = some (.blockBody, 10, 7, 7) := rfl
theorem test_next_checksum :
    row { atByteEnd .blockBody 10 with csum := 0x3E } = some (.blockChecksum, 0, 0xC2, 0x3E) := rfl
theorem test_next_second_block :
    after (step (atByteEnd .blockChecksum 0)) (fun t => (t.addr, t.pcur, t.phase, t.shreg)) =
      some (0x1010, 8, .blockStart, 0x53) := rfl
theorem test_next_trailer :
    after (step secondBlock) (fun t => (t.addr, t.pcur, t.phase, t.shreg)) = some (0x1018, 16, .trailer, 0x53) := rfl
theorem test_next_end_marker : row (atByteEnd .trailer 0) = some (.trailer, 1, 0x4A, 0) := rfl
theorem test_next_done :
    after (step (atByteEnd .trailer 1)) (fun t => (t.done, t.busy, t.line, t.bidx)) =
      some (true, false, false, 0) := rfl

/-- 95 section 2.1: the eight periods of a 0 bit at `N_LONG` = 4, then the next bit (0xFF, section 2.2). -/
theorem test_tick_start_bit :
    after (ticks ⟨1, 4, by decide, by decide⟩ (startPins 0x1000 1 :: List.replicate 8 .quiet) State.reset)
      (fun t => (t.bitpos, t.line, t.timer, t.bitTrace, t.lTrace)) =
      some (1, true, 1, [false], [⟨true, .long⟩, ⟨false, .long⟩]) := rfl

/-- RST wins over START and over a running transfer (R164). -/
theorem test_reset_wins :
    after (step { midByte with inputs := [.edge { startPins 0x1000 1 with rst := true }] }) (·.phase) = some .idle := rfl

/-! ### Witnesses: the hypotheses of every statement that has some are met by these states -/

theorem timing_nLong_pos : 1 ≤ Config.timing.nLong :=
  Nat.le_of_lt (Nat.lt_of_le_of_lt Config.timing.short_pos Config.timing.short_lt_long)

theorem witness_StepRunsCalledOperation :
    let s := facing (.call 16)
    s.live = true ∧ s.inputs = .call 16 :: [] ∧ decode 16 = .ok .reset ∧ Instr.reset.wellFormed = true :=
  ⟨rfl, rfl, rfl, rfl⟩

theorem witness_CallsWithoutMeaning :
    (facing (.call 0x11)).inputs = .call 0x11 :: [] ∧ decode 0x11 = .error .unknownSelector ∧
      decode (encode (.transmit 0x1000 61441)) = .ok (.transmit 0x1000 61441) ∧
      (Instr.transmit 0x1000 61441).wellFormed = false := ⟨rfl, rfl, rfl, rfl⟩

/-- Also for `ResetWorksFromEveryState`. -/
theorem witness_EventsOnOneEdge_reset :
    let p : Pins := { Pins.quiet with rst := true }
    (facing (.edge p)).live = true ∧ (facing (.edge p)).inputs = .edge p :: [] ∧ p.rst = true := ⟨rfl, rfl, rfl⟩

theorem witness_EventsOnOneEdge_accepted :
    let p := startPins 0x1000 61440
    let s := facing (.edge p)
    s.live = true ∧ s.inputs = .edge p :: [] ∧ p.rst = false ∧ s.busy = false ∧ p.start = true ∧
      p.base.toNat + p.len.toNat = 65536 := ⟨rfl, rfl, rfl, rfl, rfl, rfl⟩

theorem witness_EventsOnOneEdge_refused :
    let p := startPins 0x1000 61441
    let s := facing (.edge p)
    s.live = true ∧ s.inputs = .edge p :: [] ∧ p.rst = false ∧ s.busy = false ∧ p.start = true ∧
      p.base.toNat + p.len.toNat = 65537 := ⟨rfl, rfl, rfl, rfl, rfl, rfl⟩

theorem witness_EventsOnOneEdge_quiet :
    let s := facing (.edge .quiet)
    s.live = true ∧ s.inputs = .edge .quiet :: [] ∧ s.busy = false ∧ Pins.quiet.start = false := ⟨rfl, rfl, rfl, rfl⟩

theorem witness_EventsOnOneEdge_busy :
    midByte.live = true ∧ midByte.inputs = .edge .quiet :: [] ∧ Pins.quiet.rst = false ∧ midByte.busy = true :=
  ⟨rfl, rfl, rfl, rfl⟩

theorem witness_DecodeOfEncode :
    (Instr.transmit 0x1000 61440).wellFormed = true ∧ (Instr.sendByte 0xFF true).wellFormed = true := by decide

theorem witness_EncodeOfDecode : decode 16 = .ok .reset ∧ decode 0x1_0000FFF8_0F = .ok (.start 0xFFF8 0x10000) :=
  ⟨rfl, rfl⟩

/-- For `BlkDataSendsTheSlice` and `BlkDataOutsidePayloadFaults`: no data, the last slice that fits, the first that does not. -/
theorem witness_BlkData :
    let s : State := { State.reset with lenl := 16, pcur := 8, blen := 8 }
    let u : State := { State.reset with lenl := 16, pcur := 9, blen := 8 }
    State.reset.blen = 0 ∧ 1 ≤ s.blen.toNat ∧ s.pcur.toNat + s.blen.toNat = s.lenl.toNat ∧
      1 ≤ u.blen.toNat ∧ u.lenl.toNat + 1 = u.pcur.toNat + u.blen.toNat := by decide

/-- One byte left, for `BlockIsSizedByThePolicy`, `BlockSendsOnePacketAndAdvances` and `EmittedBlockSumsToZero`; none left,
for `BlockNeedsPayloadLeft`. -/
theorem witness_Block :
    let s : State := { State.reset with lenl := 16, pcur := 15 }
    s.pcur.toNat + 1 = s.lenl.toNat ∧ State.reset.lenl.toNat ≤ State.reset.pcur.toNat := by decide

/-- The shortest and the longest packet decode. -/
theorem witness_BlockPacketDecodes :
    (decodeBlock (blockBytes 0x1000 [1] ++ [0x53])).toOption = some ((0x1000, [1]), [0x53]) ∧
      (decodeBlock (blockBytes 0x1000 (List.replicate 16 0xAA))).toOption =
        some ((0x1000, List.replicate 16 0xAA), []) := by decide

/-- A first, a middle and a last block. -/
theorem witness_SplitHasTheStatedShape :
    (split 0x100F 18)[0]? = some ⟨0x100F, 0, 1⟩ ∧ (split 0x100F 18)[1]? = some ⟨0x1010, 1, 16⟩ ∧
      (split 0x100F 18)[2]? = some ⟨0x1020, 17, 1⟩ ∧ (split 0x100F 18).length = 3 := by decide

/-- The boundary, for `StreamCarriesThePayload`, `TransmitSendsTheStream`, `TransferDependsOnItsInputsAlone`,
`TransmittedSegmentsDecodeToPayload`, and for `TransmitNeedsRoom`. -/
theorem witness_Transmit :
    (0xFFF8 : Addr).toNat + (8 : Len).toNat = 65536 ∧ 65536 < (0xFFF8 : Addr).toNat + (9 : Len).toNat := by decide

/-- Two states that differ but hold one payload. -/
theorem witness_TransferDependsOnItsInputs :
    let s : State := { State.reset with payload := payloadOf [1, 2] }
    let s' : State := { midByte with payload := payloadOf [1, 2, 3] }
    ∀ i, i < (2 : Len).toNat → s.payloadAt i = s'.payloadAt i := by decide

/-- For `AcceptedStartBeginsPreamble`, `RefusedStartOnlySetsErr` and `StartWhileBusyIsIgnored`. -/
theorem witness_Start :
    State.reset.busy = false ∧ (0x1000 : Addr).toNat + (61440 : Len).toNat = 65536 ∧
      (0x1000 : Addr).toNat + (61441 : Len).toNat = 65537 ∧ midByte.busy = true := by decide

theorem witness_RefusedTransfer :
    let p := startPins 0xFFFF 2
    let s : State := { State.reset with inputs := [.edge p, .edge .quiet] }
    s.live = true ∧ s.busy = false ∧ p.rst = false ∧ p.start = true ∧ 65536 < p.base.toNat + p.len.toNat ∧
      (∀ q ∈ [Pins.quiet], q.rst = false ∧ q.start = false) ∧
      s.inputs = (p :: [Pins.quiet]).map Stimulus.edge ++ [] := by decide

/-- The first period of a start bit, which is long. -/
theorem witness_BitHoldsItsLevels :
    let s : State := { State.reset with phase := .preamble, line := true, timer := Config.timing.nLong }
    s.live = true ∧ s.busy = true ∧ s.bitpos.toNat ≤ 9 ∧ s.half = false ∧ s.line = true ∧ s.currentBit = false ∧
      s.timer = Config.timing.nLong ∧ Undisturbed s.inputs ∧ 0 < s.timer :=
  ⟨rfl, rfl, by decide, rfl, rfl, rfl, rfl, fun _ h => (by cases h), timing_nLong_pos⟩

theorem witness_NextFrameBit :
    let s : State := { atByteEnd .preamble 0 with bitpos := 8 }
    s.live = true ∧ s.busy = true ∧ s.bitpos.toNat < 9 ∧ s.half = true ∧ s.timer ≤ 1 ∧
      s.inputs = .edge .quiet :: [] ∧ Pins.quiet.rst = false := by decide

/-- The end of a byte in any phase, for `NextFollowsTheTable` and `UnreachablePositionIsRefused`. -/
theorem witness_AtByteEnd (phase : Phase) (bidx : BitVec 5) :
    (atByteEnd phase bidx).AtByteEnd ∧ (atByteEnd phase bidx).inputs = .edge .quiet :: [] ∧ Pins.quiet.rst = false :=
  ⟨⟨rfl, rfl, rfl, Nat.le_refl 1⟩, rfl, rfl⟩

/-- The conditions of the rows of R141 on the cursors, each at its boundary. -/
theorem witness_NextFollowsTheTable :
    let first := atByteEnd .preamble 1
    let empty : State := { first with lenl := 0 }
    let lastData := atByteEnd .blockBody 9
    let sum := atByteEnd .blockBody 10
    let ck := atByteEnd .blockChecksum 0
    first.pcur.toNat < first.lenl.toNat ∧ empty.pcur = empty.lenl ∧ 2 ≤ lastData.bidx.toNat ∧
      lastData.bidx.toNat = lastData.blen.toNat + 1 ∧
      lastData.pcur.toNat + lastData.blen.toNat ≤ lastData.lenl.toNat ∧ Pins.quiet.pData = none ∧
      sum.bidx.toNat = sum.blen.toNat + 2 ∧ ck.pcur.toNat + ck.blen.toNat < ck.lenl.toNat ∧
      secondBlock.pcur.toNat + secondBlock.blen.toNat = secondBlock.lenl.toNat := by decide

/-- An edge that moves the phase, and an edge that moves it from `Done` back to `Idle`. -/
theorem witness_PhaseMoves :
    after (step (atByteEnd .trailer 1)) (·.phase) = some .done ∧
      after (step { facing (.edge (startPins 0xFFFF 2)) with phase := .done }) (·.phase) = some .idle := ⟨rfl, rfl⟩

theorem witness_PayloadAddress :
    (atByteEnd .blockBody 2).pAddr = 0 ∧ (atByteEnd .blockBody 9).pAddr = 7 ∧ secondBlock.pAddr = 8 ∧
      midByte.live = true ∧ midByte.busy = true ∧ midByte.inputs = .edge .quiet :: [] ∧ ¬midByte.AtByteEnd ∧
      ∃ t, step midByte = .next t :=
  ⟨rfl, rfl, rfl, rfl, rfl, rfl, fun h => absurd h.bitpos (by decide), _, rfl⟩

theorem witness_LateAnswer :
    let p : Pins := { Pins.quiet with pData := some 0x5A }
    let s : State := { atByteEnd .blockBody 2 with inputs := [.edge p] }
    s.AtByteEnd ∧ s.phase = .blockBody ∧ 2 ≤ s.bidx.toNat ∧ s.bidx.toNat ≤ s.blen.toNat + 1 ∧
      s.pcur.toNat + s.blen.toNat ≤ s.lenl.toNat ∧ s.inputs = .edge p :: [] ∧ p.rst = false ∧ p.pData = some 0x5A :=
  ⟨⟨rfl, rfl, rfl, Nat.le_refl 1⟩, rfl, by decide, by decide, by decide, rfl, rfl, rfl⟩

/-- The byte that is read next is changed. -/
theorem witness_ChangedPayloadByte :
    let s : State := { atByteEnd .blockBody 2 with inputs := [.place 0 0x5A, .edge .quiet] }
    s.AtByteEnd ∧ s.phase = .blockBody ∧ 2 ≤ s.bidx.toNat ∧ s.bidx.toNat ≤ s.blen.toNat + 1 ∧
      s.pcur.toNat + s.blen.toNat ≤ s.lenl.toNat ∧ s.inputs = .place 0 0x5A :: .edge .quiet :: [] ∧
      Pins.quiet.rst = false ∧ Pins.quiet.pData = none ∧ s.pAddr = 0 :=
  ⟨⟨rfl, rfl, rfl, Nat.le_refl 1⟩, rfl, by decide, by decide, by decide, rfl, rfl, rfl, rfl⟩

/-- A state of the invariant at the end of a byte. -/
theorem atByteEnd_inv : (atByteEnd .blockBody 2).Inv := by
  refine ⟨?_, fun _ => ⟨by decide, by decide, fun _ => ⟨0x1008, by decide, by decide⟩, ?_, by decide, ?_, by decide,
    by decide, by decide⟩⟩
  · intro x hx w
    simp only [atByteEnd, List.mem_singleton] at hx
    simp [hx]
  · exact ⟨by decide, by decide, by decide, by decide, by decide⟩
  · exact fun _ => ⟨Nat.le_refl 1, timing_nLong_pos⟩

theorem witness_StatusOutputs :
    (atByteEnd .blockBody 2).Inv ∧ (atByteEnd .blockBody 2).live = true ∧
      (atByteEnd .blockBody 2).inputs = .edge .quiet :: [] := ⟨atByteEnd_inv, rfl, rfl⟩

theorem reset_inv : State.reset.Inv := by
  refine ⟨fun x hx => (by cases hx), fun _ => ⟨by decide, by decide, by decide, rfl, by decide, by decide, by decide,
    by decide, by decide⟩⟩

/-- Also for `StepKeepsPayloadCanonical`. -/
theorem witness_StepKeepsTheRanges :
    (atByteEnd .blockBody 2).Inv ∧ (∃ t, step (atByteEnd .blockBody 2) = .next t) ∧
      (atByteEnd .blockBody 2).payload.wf = true := ⟨atByteEnd_inv, ⟨_, rfl⟩, rfl⟩

theorem witness_EdgeNeverStops :
    State.reset.Inv ∧ State.reset.live = true ∧ State.reset.inputs = [] ∧
      (∃ p rest, (atByteEnd .blockBody 2).inputs = .edge p :: rest) := ⟨reset_inv, rfl, rfl, _, _, rfl⟩

/-- For `ClockedRunIsTransmit` and `LineShowsTheStream`. -/
theorem witness_ClockedRun :
    let p := startPins 0xFFF8 8
    let ps := List.replicate (transferPeriods State.reset 0xFFF8 8) Pins.quiet
    let s : State := { State.reset with inputs := (p :: ps).map Stimulus.edge }
    s.live = true ∧ s.busy = false ∧ p.rst = false ∧ p.start = true ∧ p.base.toNat + p.len.toNat = 65536 ∧
      (∀ q ∈ ps, q.Conforming) ∧ ps.length = transferPeriods s p.base p.len ∧
      s.inputs = (p :: ps).map Stimulus.edge ++ [] :=
  ⟨rfl, rfl, rfl, rfl, rfl, fun _ hq => by rw [(List.mem_replicate.1 hq).2]; exact ⟨rfl, rfl⟩,
    List.length_replicate, (List.append_nil _).symm⟩

theorem witness_BlockWritesNoMemory :
    (∀ i b rest, (atByteEnd .blockBody 2).inputs ≠ .place i b :: rest) ∧ ∃ t, step (atByteEnd .blockBody 2) = .next t :=
  ⟨fun _ _ _ h => (by cases h), _, rfl⟩

theorem witness_PlacedByteReadsBack : (facing (.place 0xFFFF 7)).inputs = .place 0xFFFF 7 :: [] := rfl

theorem witness_NothingRunsBeforeTheFirstReset :
    let s : State := { midByte with inputs := [.powerLoss, .edge .quiet] }
    s.inputs = .powerLoss :: .edge .quiet :: [] ∧ Pins.quiet.rst = false ∧
      { Pins.quiet with rst := true }.rst = true := ⟨rfl, rfl, rfl⟩

/-- One position of each kind that the table of R141 does not hold. -/
theorem witness_UnreachablePosition :
    let body := atByteEnd .blockBody 11
    let past : State := { atByteEnd .preamble 1 with pcur := 17 }
    let pastBlock : State := { atByteEnd .blockChecksum 0 with pcur := 9 }
    2 ≤ (atByteEnd .trailer 2).bidx.toNat ∧ body.blen.toNat + 2 < body.bidx.toNat ∧
      1 ≤ (atByteEnd .blockChecksum 1).bidx.toNat ∧ past.lenl.toNat < past.pcur.toNat ∧
      pastBlock.lenl.toNat < pastBlock.pcur.toNat + pastBlock.blen.toNat := by decide

end Sys2Proof.Tests
end

section
/-! The call of an operation: what the step does with the word at the head of the schedule. -/

namespace Sys2Proof.Machine

/-- A scheduled call is the step: it is taken from the schedule, then its word is decoded (log 1). -/
theorem step_call {s : State} {w : OpWord} {rest : List Stimulus} (hin : s.inputs = .call w :: rest) :
    step s = callStep w (s.withInputs rest) := by
  simp only [step, hin, stimulate]

/-- Once the block has been reset, well-formedness alone decides whether a decoded operation is run. -/
theorem callStep_of_live {s : State} {w : OpWord} {i : Instr} (hl : s.live = true) (hd : decode w = .ok i) :
    callStep w s = if i.wellFormed then exec i s else .refused .illFormed := by
  have hgate : ¬ (s.live = false ∧ i ≠ .reset) := by simp [hl]
  simp only [callStep, hd, if_neg hgate]

/-- Settles O2: the call is fetched, the gate of R182 is open, and well-formedness lets `exec` run. -/
theorem stepRunsCalledOperation : Obligations.StepRunsCalledOperation := by
  intro s w i rest hlive hin hdec hwf
  have hlive' : (s.withInputs rest).live = true := (s.withInputs_live rest).trans hlive
  calc step s = callStep w (s.withInputs rest) := step_call hin
    _ = if i.wellFormed then exec i (s.withInputs rest) else .refused .illFormed := callStep_of_live hlive' hdec
    _ = exec i (s.withInputs rest) := if_pos hwf

end Sys2Proof.Machine
end

section
/-! The ranges of R40: what each move of the clocked machine does to them, and the invariant of a run. -/

namespace Sys2Proof.Machine

/-! ### The ranges in two parts: the sequencer's registers and those of the lower layers -/

/-- The cursors of R25 and R40 outside `Idle`: `PCUR` inside the payload, and `ADDR` is as far past `BASE`
as `PCUR` is past 0. -/
structure State.CursorsInRange (s : State) : Prop where
  pcur_le : s.pcur.toNat ≤ s.lenl.toNat
  lenl_le : s.lenl.toNat ≤ 65536
  addressed : ∃ base : Addr,
    base.toNat + s.lenl.toNat ≤ 65536 ∧ s.addr.toNat = (base.toNat + s.pcur.toNat) % 65536

/-- The registers of `CursorsInRange`. -/
def State.cursors (s : State) : Addr × Len × Len :=
  (s.addr, s.pcur, s.lenl)

/-- The registers of the Block Protocol Encoder that the ranges of R40 speak of. -/
def State.position (s : State) : (Phase × BitVec 5 × BitVec 5) × Addr × Len × Len :=
  ((s.phase, s.bidx, s.blen), s.cursors)

/-- All registers that the ranges of R40 speak of. -/
def State.ranged (s : State) :
    ((Phase × BitVec 5 × BitVec 5) × Addr × Len × Len) × Bool × Bool × Bool × BitVec 4 × Nat :=
  (s.position, s.line, s.half, s.err, s.bitpos, s.timer)

theorem State.CursorsInRange.congr {s t : State} (h : t.cursors = s.cursors) (hs : s.CursorsInRange) :
    t.CursorsInRange := by
  simp only [State.cursors, Prod.mk.injEq] at h
  obtain ⟨haddr, hpcur, hlenl⟩ := h
  obtain ⟨hp, hl, ha⟩ := hs
  exact ⟨by rwa [hpcur, hlenl], by rwa [hlenl], by rwa [haddr, hpcur, hlenl]⟩

theorem State.BlockSized.congr {s t : State} (hb : t.blen = s.blen) (hc : t.cursors = s.cursors)
    (hs : s.BlockSized) : t.BlockSized := by
  simp only [State.cursors, Prod.mk.injEq] at hc
  obtain ⟨haddr, hpcur, hlenl⟩ := hc
  obtain ⟨hpos, hle, hwithin, haligned⟩ := hs
  exact ⟨by rwa [hb], by rwa [hb], by rwa [hb, hpcur, hlenl], by rwa [hb, haddr]⟩

/-! What `PhaseRange` says in each phase. -/

theorem State.phaseRange_of_preamble {s : State} (h : s.phase = .preamble) :
    s.PhaseRange ↔ s.bidx.toNat ≤ 1 ∧ s.pcur = 0 := by
  simp only [State.PhaseRange, h]

theorem State.phaseRange_of_blockStart {s : State} (h : s.phase = .blockStart) :
    s.PhaseRange ↔ s.bidx.toNat ≤ 1 ∧ s.pcur.toNat < s.lenl.toNat := by
  simp only [State.PhaseRange, h]

theorem State.phaseRange_of_blockBody {s : State} (h : s.phase = .blockBody) :
    s.PhaseRange ↔ s.bidx.toNat ≤ s.blen.toNat + 2 ∧ s.BlockSized := by
  simp only [State.PhaseRange, h]

theorem State.phaseRange_of_blockChecksum {s : State} (h : s.phase = .blockChecksum) :
    s.PhaseRange ↔ s.bidx = 0 ∧ s.BlockSized := by
  simp only [State.PhaseRange, h]

theorem State.phaseRange_of_trailer {s : State} (h : s.phase = .trailer) :
    s.PhaseRange ↔ s.bidx.toNat ≤ 1 ∧ s.pcur = s.lenl := by
  simp only [State.PhaseRange, h]

theorem State.phaseRange_of_not_busy {s : State} (h : s.busy = false) : s.PhaseRange ↔ s.bidx = 0 := by
  cases hp : s.phase <;> simp_all [State.PhaseRange, State.busy, Phase.busy]

theorem State.phaseRange_congr {s t : State} (h : t.position = s.position) (hs : s.PhaseRange) : t.PhaseRange := by
  obtain ⟨⟨hphase, hbidx, hblen⟩, hcursors⟩ : ((t.phase = _ ∧ t.bidx = _ ∧ t.blen = _) ∧ t.cursors = _) := by
    simpa only [State.position, Prod.mk.injEq] using h
  have hsized := State.BlockSized.congr hblen hcursors
  simp only [State.cursors, Prod.mk.injEq] at hcursors
  obtain ⟨_, hpcur, hlenl⟩ := hcursors
  unfold State.PhaseRange at hs ⊢
  rw [hphase, hbidx, hblen, hpcur, hlenl]
  cases hp : s.phase <;> simp only [hp] at hs ⊢
  case blockBody => exact hs.imp_right hsized
  case blockChecksum => exact hs.imp_right hsized
  all_goals exact hs

theorem State.phase_ne_idle_of_busy {s : State} (h : s.busy = true) : s.phase ≠ .idle := by
  intro hp
  simp [State.busy, hp, Phase.busy] at h

/-- The ranges depend on no register but those of `ranged`, and on nothing outside the block. -/
theorem State.Ranges.congr {s t : State} (h : t.ranged = s.ranged) (hs : s.Ranges) : t.Ranges := by
  simp only [State.ranged, Prod.mk.injEq] at h
  obtain ⟨hposition, hline, hhalf, herr, hbitpos, htimer⟩ := h
  have hin := State.phaseRange_congr hposition hs.in_phase
  simp only [State.position, State.cursors, Prod.mk.injEq] at hposition
  obtain ⟨⟨hphase, _, _⟩, haddr, hpcur, hlenl⟩ := hposition
  have hbusy : t.busy = s.busy := by rw [State.busy, State.busy, hphase]
  exact {
    pcur_le := by rw [hpcur, hlenl]; exact hs.pcur_le
    lenl_le := by rw [hlenl]; exact hs.lenl_le
    addressed := by rw [hphase, haddr, hpcur, hlenl]; exact hs.addressed
    in_phase := hin
    bitpos_le := by rw [hbitpos]; exact hs.bitpos_le
    timer_range := by rw [hbusy, htimer]; exact hs.timer_range
    line_busy := by rw [hbusy, hline, hhalf]; exact hs.line_busy
    line_quiet := by rw [hbusy, hline]; exact hs.line_quiet
    err_idle := by rw [herr, hphase]; exact hs.err_idle }

theorem State.Ranges.cursorsInRange {s : State} (h : s.Ranges) (hp : s.phase ≠ .idle) : s.CursorsInRange :=
  ⟨h.pcur_le, h.lenl_le, h.addressed hp⟩

/-- `ERR` is 0 while busy (R157). -/
theorem State.Ranges.err_of_busy {s : State} (h : s.Ranges) (hb : s.busy = true) : s.err = false :=
  Bool.eq_false_iff.2 fun he => State.phase_ne_idle_of_busy hb (h.err_idle he)

/-- What a busy state has to meet. -/
theorem State.Ranges.of_busy {t : State} (hb : t.busy = true) (hc : t.CursorsInRange) (hp : t.PhaseRange)
    (h9 : t.bitpos.toNat ≤ 9) (ht : 1 ≤ t.timer ∧ t.timer ≤ Config.timing.nLong) (hl : t.line = !t.half)
    (he : t.err = false) : t.Ranges where
  pcur_le := hc.pcur_le
  lenl_le := hc.lenl_le
  addressed _ := hc.addressed
  in_phase := hp
  bitpos_le := h9
  timer_range _ := ht
  line_busy _ := hl
  line_quiet h := by simp [hb] at h
  err_idle h := by simp [he] at h

/-! ### Reset, and the two outcomes of START -/

theorem State.reset_ranges : State.reset.Ranges where
  pcur_le := Nat.le_refl 0
  lenl_le := Nat.zero_le _
  addressed h := absurd rfl h
  in_phase := rfl
  bitpos_le := Nat.zero_le _
  timer_range h := by cases h
  line_busy h := by cases h
  line_quiet _ := rfl
  err_idle h := by cases h

/-- A reset leads into the ranges from every state, also from one that lost power (R151, R182). -/
theorem State.toReset_ranges (s : State) : s.toReset.Ranges :=
  State.Ranges.congr (s := State.reset) rfl State.reset_ranges

/-- A segment lasts at least one period and at most `N_LONG` (R10, R107). -/
theorem bitPeriods_range (c : Config.Timing) (v : Bool) : 1 ≤ bitPeriods c v ∧ bitPeriods c v ≤ c.nLong := by
  have hpos := c.short_pos
  have hlt := c.short_lt_long
  cases v
  case false => exact ⟨Nat.le_trans hpos (Nat.le_of_lt hlt), Nat.le_refl _⟩
  case true => exact ⟨hpos, Nat.le_of_lt hlt⟩

/-- A byte begins in the ranges when the sequencer has placed it in them (R146). -/
theorem State.load_ranges {u : State} (b : Byte) (count : Bool) (hb : u.busy = true) (hc : u.CursorsInRange)
    (hp : u.PhaseRange) (he : u.err = false) : (u.load Config.timing b count).Ranges :=
  State.Ranges.of_busy hb (hc.congr (s := u) rfl) (State.phaseRange_congr (s := u) rfl hp) (Nat.zero_le 9)
    (bitPeriods_range Config.timing (frameBit b 0)) rfl he

/-- An accepted START begins a transfer in the ranges: the tested sum is what `LENL` and R25 need (R150). -/
theorem State.acceptStart_ranges (s : State) {base : Addr} {len : Len} (hfit : base.toNat + len.toNat ≤ 65536) :
    (s.acceptStart Config.timing base len).Ranges := by
  refine State.load_ranges _ _ rfl ⟨Nat.zero_le _, ?_, base, hfit, ?_⟩ ⟨Nat.zero_le 1, rfl⟩ rfl
  · exact Nat.le_trans (Nat.le_add_left _ _) hfit
  · exact (Nat.mod_eq_of_lt base.isLt).symm

/-- A refused START goes to `Idle`, where R25 asks nothing of `ADDR` (R162). -/
theorem State.takeCfgError_ranges {s : State} (h : s.Ranges) (hb : s.busy = false) : s.takeCfgError.Ranges where
  pcur_le := h.pcur_le
  lenl_le := h.lenl_le
  addressed hp := absurd rfl hp
  in_phase := (State.phaseRange_of_not_busy hb).1 h.in_phase
  bitpos_le := h.bitpos_le
  timer_range h := by cases h
  line_busy h := by cases h
  line_quiet _ := h.line_quiet hb
  err_idle _ := rfl

/-! ### `Next`: the rows of R141 -/

/-- The phases of two bytes go on to their second byte. -/
theorem State.nextIndex_phaseRange_of_first {s : State}
    (hp : s.phase = .preamble ∨ s.phase = .blockStart ∨ s.phase = .trailer) (h0 : s.bidx = 0) (h : s.PhaseRange) :
    s.nextIndex.PhaseRange := by
  have h1 : s.nextIndex.bidx.toNat ≤ 1 := by simp [h0]
  rcases hp with hp | hp | hp
  · exact (State.phaseRange_of_preamble (s := s.nextIndex) hp).2 ⟨h1, ((State.phaseRange_of_preamble hp).1 h).2⟩
  · exact (State.phaseRange_of_blockStart (s := s.nextIndex) hp).2 ⟨h1, ((State.phaseRange_of_blockStart hp).1 h).2⟩
  · exact (State.phaseRange_of_trailer (s := s.nextIndex) hp).2 ⟨h1, ((State.phaseRange_of_trailer hp).1 h).2⟩

/-- Inside a block body the next index fits `BIDX` and is in its range. -/
theorem State.nextIndex_phaseRange_of_blockBody {s : State} (hp : s.phase = .blockBody) (h : s.PhaseRange)
    (hi : s.bidx.toNat ≤ s.blen.toNat + 1) : s.nextIndex.PhaseRange := by
  obtain ⟨_, hsized⟩ := (State.phaseRange_of_blockBody hp).1 h
  have hle := hsized.blen_le
  refine (State.phaseRange_of_blockBody (s := s.nextIndex) hp).2 ⟨?_, hsized.congr (s := s) rfl rfl⟩
  simp only [State.nextIndex_bidx, State.nextIndex_blen]
  bv_omega

theorem State.enterFirst_blockStart_phaseRange {s : State} (h : s.pcur.toNat < s.lenl.toNat) :
    (s.enterFirst .blockStart).PhaseRange :=
  ⟨Nat.zero_le 1, h⟩

theorem State.enterFirst_trailer_phaseRange {s : State} (h : s.pcur.toNat = s.lenl.toNat) :
    (s.enterFirst .trailer).PhaseRange :=
  ⟨Nat.zero_le 1, BitVec.eq_of_toNat_eq h⟩

theorem State.enterFirst_blockChecksum_phaseRange {s : State} (h : s.BlockSized) :
    (s.enterFirst .blockChecksum).PhaseRange :=
  ⟨rfl, h.congr (s := s) rfl rfl⟩

/-- Sizing puts the block that starts here into its range (R131). -/
theorem State.sizeBlock_phaseRange {s : State} (h : s.pcur.toNat < s.lenl.toNat) :
    (s.sizeBlock.clearSum.enterFirst .blockBody).PhaseRange := by
  obtain ⟨hpos, h16, hrest, halign⟩ := blockLength_range s.addr.toNat (Nat.sub_pos_of_lt h)
  rw [← State.nextBlen_toNat h] at hpos h16 hrest halign
  exact ⟨Nat.zero_le _, hpos, h16, Nat.add_le_of_le_sub' (Nat.le_of_lt h) hrest, halign⟩

/-- Both cursors advance by `BLEN`, so their distance stays (R25, R129). -/
theorem State.advance_cursors {s : State} (hc : s.CursorsInRange) (hsized : s.BlockSized) :
    s.advance.CursorsInRange ∧ s.advance.pcur.toNat = s.pcurAfter := by
  obtain ⟨_, hlenl, base, hfit, haddr⟩ := hc
  have hwithin := hsized.within_payload
  have hpcur : s.advance.pcur.toNat = s.pcurAfter := by
    simp only [State.advance_pcur, BitVec.toNat_ofNat, State.pcurAfter]
    omega
  refine ⟨⟨?_, hlenl, base, hfit, ?_⟩, hpcur⟩
  · rw [hpcur]
    exact hwithin
  · rw [hpcur]
    simp only [State.advance_addr, State.addrAfter, State.pcurAfter, BitVec.toNat_add, BitVec.toNat_setWidth]
    omega

/-- The sequencer's share of the ranges after `Next`: the cursors, the index in its phase, and that the machine stays
busy exactly when a byte is loaded. -/
theorem nextByte_inRange {p : Pins} {s u : State} {o : Option (Byte × Bool)} (h : nextByte p s = .next (u, o))
    (hb : s.busy = true) (hc : s.CursorsInRange) (hr : s.PhaseRange) :
    u.CursorsInRange ∧ u.PhaseRange ∧ u.busy = o.isSome := by
  have hsame {t : State} (ht : t.cursors = s.cursors) : t.CursorsInRange := hc.congr ht
  rcases nextByte_cases h with ⟨hp, h0, e⟩ | ⟨_, _, hlt, e⟩ | ⟨_, _, heq, e⟩ | ⟨hp, h0, e⟩ | ⟨hp, _, e⟩ |
      ⟨hp, h0, e⟩ | ⟨hp, h1, e⟩ | ⟨hp, _, hle, _, e⟩ | ⟨hp, _, e⟩ | ⟨hp, _, hlt, e⟩ | ⟨hp, _, heq, e⟩ |
      ⟨hp, h0, e⟩ | ⟨_, _, e⟩ <;>
    cases e
  · exact ⟨hsame rfl, State.nextIndex_phaseRange_of_first (.inl hp) h0 hr, hb⟩
  · exact ⟨hsame rfl, State.enterFirst_blockStart_phaseRange hlt, rfl⟩
  · exact ⟨hsame rfl, State.enterFirst_trailer_phaseRange heq, rfl⟩
  · exact ⟨hsame rfl, State.nextIndex_phaseRange_of_first (.inr (.inl hp)) h0 hr, hb⟩
  · obtain ⟨_, hlt⟩ := (State.phaseRange_of_blockStart hp).1 hr
    exact ⟨hsame rfl, State.sizeBlock_phaseRange hlt, rfl⟩
  · exact ⟨hsame rfl, State.nextIndex_phaseRange_of_blockBody hp hr (by simp [h0]), hb⟩
  · exact ⟨hsame rfl, State.nextIndex_phaseRange_of_blockBody hp hr (by simp [h1]), hb⟩
  · exact ⟨hsame rfl, State.nextIndex_phaseRange_of_blockBody hp hr hle, hb⟩
  · obtain ⟨_, hsized⟩ := (State.phaseRange_of_blockBody hp).1 hr
    exact ⟨hsame rfl, State.enterFirst_blockChecksum_phaseRange hsized, rfl⟩
  · obtain ⟨_, hsized⟩ := (State.phaseRange_of_blockChecksum hp).1 hr
    obtain ⟨hadv, hpcur⟩ := State.advance_cursors hc hsized
    exact ⟨hadv.congr (s := s.advance) rfl, State.enterFirst_blockStart_phaseRange (hpcur ▸ hlt), rfl⟩
  · obtain ⟨_, hsized⟩ := (State.phaseRange_of_blockChecksum hp).1 hr
    obtain ⟨hadv, hpcur⟩ := State.advance_cursors hc hsized
    exact ⟨hadv.congr (s := s.advance) rfl, State.enterFirst_trailer_phaseRange (hpcur.trans heq), rfl⟩
  · exact ⟨hsame rfl, State.nextIndex_phaseRange_of_first (.inr (.inr hp)) h0 hr, hb⟩
  · exact ⟨hsame rfl, rfl, rfl⟩

/-- Only the end of the trailer loads no byte (R141). -/
theorem nextByte_none {p : Pins} {s u : State} (h : nextByte p s = .next (u, none)) : u = s.enterFirst .done := by
  obtain ⟨_, _, hu⟩ : s.phase = .trailer ∧ s.bidx = 1 ∧ u = s.enterFirst .done := by simpa using nextByte_cases h
  exact hu

/-- A transfer ends in the ranges: the last low half has left the line low (R141, R157). -/
theorem State.enterFirst_done_ranges {s : State} (hc : s.CursorsInRange) (h9 : s.bitpos.toNat ≤ 9)
    (hl : s.line = false) (he : s.err = false) : (s.enterFirst .done).Ranges where
  pcur_le := hc.pcur_le
  lenl_le := hc.lenl_le
  addressed _ := hc.addressed
  in_phase := rfl
  bitpos_le := h9
  timer_range h := by cases h
  line_busy h := by cases h
  line_quiet _ := hl
  err_idle h := by simp [he] at h

/-! ### One clock edge -/

/-- Every edge while busy keeps the ranges (R107, R112, R141, R146). -/
theorem busyTick_ranges {p : Pins} {s t : State} (hb : s.busy = true) (hs : s.Ranges)
    (h : busyTick Config.timing p s = .next t) : t.Ranges := by
  have hc := hs.cursorsInRange (State.phase_ne_idle_of_busy hb)
  have hp := hs.in_phase
  have he := hs.err_of_busy hb
  obtain ⟨_, hlong⟩ := hs.timer_range hb
  have hsamec {u : State} (hu : u.cursors = s.cursors) : u.CursorsInRange := hc.congr hu
  have hsamep {u : State} (hu : u.position = s.position) : u.PhaseRange := State.phaseRange_congr hu hp
  obtain ⟨h9, ⟨ht, rfl⟩ | ⟨_, _, rfl⟩ | ⟨_, _, hlt, rfl⟩ | ⟨_, hlow, _, hover⟩⟩ := busyTick_cases h
  · exact State.Ranges.of_busy hb (hsamec rfl) (hsamep rfl) h9
      ⟨Nat.le_sub_one_of_lt ht, Nat.le_trans (Nat.sub_le _ _) hlong⟩ (hs.line_busy hb) he
  · exact State.Ranges.of_busy hb (hsamec rfl) (hsamep rfl) h9 (bitPeriods_range _ s.currentBit) rfl he
  · have hnext : (s.bitpos + 1).toNat ≤ 9 := by bv_omega
    exact State.Ranges.of_busy hb (hsamec rfl) (hsamep rfl) hnext
      (bitPeriods_range _ (frameBit s.shreg (s.bitpos + 1).toNat)) rfl he
  · obtain ⟨u, b, count, hn, rfl⟩ | hn := byteOver_cases hover
    · obtain ⟨huc, hup, hub⟩ := nextByte_inRange hn hb (hsamec rfl) (hsamep rfl)
      obtain ⟨_, _, hue, _⟩ := nextByte_keeps hn
      exact State.load_ranges b count hub huc hup (hue.trans he)
    · rw [nextByte_none hn]
      exact State.enterFirst_done_ranges (hsamec rfl) h9 (by simp [hs.line_busy hb, hlow]) he

/-- Every clock edge of a machine in the ranges keeps them, and a reset needs no ranges before it (R146, R164). -/
theorem tick_ranges {p : Pins} {s t : State} (hs : p.rst = false → s.Ranges)
    (h : tick Config.timing p s = .next t) : t.Ranges := by
  rcases tick_cases h with ⟨_, rfl⟩ | ⟨hr, hb, htick⟩ | ⟨_, _, _, hfit, rfl⟩ | ⟨hr, hb, _, _, rfl⟩ | ⟨hr, _, _, rfl⟩
  · exact State.toReset_ranges s
  · exact busyTick_ranges hb (hs hr) htick
  · exact State.acceptStart_ranges s ((fitsTarget_iff _ _).1 hfit)
  · exact State.takeCfgError_ranges (hs hr) hb
  · exact hs hr

/-! ### One step -/

/-- What is left of a schedule without calls has none. -/
theorem HardwareOnly.tail {xs : List Stimulus} (h : HardwareOnly xs) : HardwareOnly xs.tail :=
  fun x hx => h x (List.mem_of_mem_tail hx)

/-- Settles O1: every field of the reset state, read off. -/
theorem resetStateHoldsTableValues : Obligations.ResetStateHoldsTableValues :=
  ⟨rfl, rfl, rfl, rfl, rfl, rfl, rfl, rfl, rfl, rfl, rfl, rfl, rfl, rfl, rfl⟩

/-- Settles O50: the reset state is in the ranges and its schedule is empty. -/
theorem resetStateIsInRange : Obligations.ResetStateIsInRange :=
  ⟨fun _ hx => (by cases hx), fun _ => State.reset_ranges⟩

/-- Settles O51: by what the next stimulus is. A clock edge is `tick_ranges`; placing a byte touches no register; after a
loss of power the ranges are not asked for; and a call is not in the schedule. -/
theorem stepKeepsTheRanges : Obligations.StepKeepsTheRanges := by
  intro s t ⟨hhw, hranges⟩ hstep
  have hpopped : s.live = true → s.popped.Ranges := fun hl => (hranges hl).congr (s := s) rfl
  rcases step_cases hstep with
    ⟨p, _, hgate, htick⟩ | ⟨i, b, _, _, rfl⟩ | ⟨_, _, rfl⟩ | ⟨w, _, _, hin, _⟩
  · obtain ⟨hinputs, _⟩ := tick_keeps htick
    have hready : p.rst = false → s.popped.Ranges := fun hr => hpopped (hgate.resolve_right (by simp [hr]))
    exact ⟨hinputs ▸ hhw.tail, fun _ => tick_ranges hready htick⟩
  · exact ⟨hhw.tail, fun hl => (hpopped hl).congr (s := s.popped) rfl⟩
  · exact ⟨hhw.tail, fun hl => (by cases hl)⟩
  · exact absurd rfl (hhw (.call w) (by simp [hin]) w)

end Sys2Proof.Machine
end

section
/-! The payload memory: no operation, clock edge or loss of power writes it (R52), and what the host's placing of a byte
does to it (R158). -/

namespace Sys2Proof.Machine

/-! ### The operations leave the payload alone -/

@[simp] theorem State.sendByte_payload (s : State) (b : Byte) (count : Bool) :
    (s.sendByte b count).payload = s.payload := by
  rw [State.sendByte_eq]

@[simp] theorem State.sendBytes_payload (s : State) (bytes : List Byte) (count : Bool) :
    (s.sendBytes bytes count).payload = s.payload := by
  obtain ⟨_, _, _, _, _, h⟩ := State.sendBytes_frame s bytes count
  rw [h]

@[simp] theorem State.sendBlock_payload (s : State) : s.sendBlock.payload = s.payload := by
  rw [State.sendBlock_eq]

@[simp] theorem State.sendBlocks_payload (s : State) (fuel : Nat) : (s.sendBlocks fuel).payload = s.payload := by
  induction fuel generalizing s with
  | zero => rfl
  | succ fuel ih =>
    simp only [State.sendBlocks]
    split
    · exact (ih s.sendBlock).trans s.sendBlock_payload
    · rfl

@[simp] theorem State.transmit_payload (s : State) (base : Addr) (len : Len) :
    (s.transmit base len).payload = s.payload := by
  simp only [State.transmit, State.sendTrailer, State.sendPreamble, State.enter_payload, State.sendBytes_payload,
    State.sendBlocks_payload, State.latch_payload]

@[simp] theorem State.startEdge_payload (s : State) (c : Config.Timing) (base : Addr) (len : Len) :
    (s.startEdge c base len).payload = s.payload := by
  simp only [State.startEdge]
  split
  · rfl
  · split <;> rfl

@[simp] theorem State.losePower_payload (s : State) : s.losePower.payload = s.payload := rfl

/-- An operation with an operand condition that answers a next state has met it, and answers the guarded state. -/
theorem eq_of_guarded_next {c : Prop} [Decidable c] {a t : State} {o : Host.Outcome State Fault Refusal}
    (h : (if c then .next a else o) = .next t) (ho : o ≠ .next t) : t = a := by
  split at h
  · exact (Host.Outcome.next.inj h).symm
  · exact absurd h ho

/-- R52, operation by operation: none of them writes the payload. -/
theorem exec_payload {i : Instr} {s t : State} (h : exec i s = .next t) : t.payload = s.payload := by
  cases i with
  | sendBit1 => exact Host.Outcome.next.inj h ▸ s.sendBit_payload true
  | sendBit0 => exact Host.Outcome.next.inj h ▸ s.sendBit_payload false
  | sendByte b count => exact Host.Outcome.next.inj h ▸ s.sendByte_payload b count
  | preamble => exact Host.Outcome.next.inj h ▸ s.sendBytes_payload preambleBytes false
  | blkMark => exact Host.Outcome.next.inj h ▸ s.sendBytes_payload markBytes false
  | blkClr => exact Host.Outcome.next.inj h ▸ s.clearSum_payload
  | blkLen => exact Host.Outcome.next.inj h ▸ s.sendByte_payload s.lenB true
  | blkAddr => exact Host.Outcome.next.inj h ▸ s.sendBytes_payload [s.addrHi, s.addrLo] true
  | blkData => exact eq_of_guarded_next h nofun ▸ s.sendBytes_payload s.blockData true
  | blkCk => exact Host.Outcome.next.inj h ▸ s.sendByte_payload s.checkByte false
  | blkAdv => exact Host.Outcome.next.inj h ▸ s.advance_payload
  | block => exact eq_of_guarded_next h nofun ▸ s.sendBlock_payload
  | trailer => exact Host.Outcome.next.inj h ▸ s.sendBytes_payload trailerBytes false
  | transmit base len => exact eq_of_guarded_next h nofun ▸ s.transmit_payload base len
  | start base len => exact Host.Outcome.next.inj h ▸ s.startEdge_payload Config.timing base len
  | reset => exact Host.Outcome.next.inj h ▸ s.toReset_payload

/-! ### Reading the payload -/

/-- What an index reads depends on the payload alone. -/
theorem State.memRead_congr {s t : State} (h : t.payload = s.payload) (i : Addr) : t.memRead i = s.memRead i := by
  rw [State.memRead, State.memRead, h]

@[simp] theorem State.placeByte_memRead_same (s : State) (i : Addr) (b : Byte) : (s.placeByte i b).memRead i = b := by
  rw [State.memRead, State.placeByte_payload, Memory.get?_set_same, Option.getD_some]

theorem State.placeByte_memRead_other (s : State) {i j : Addr} (b : Byte) (h : j ≠ i) :
    (s.placeByte i b).memRead j = s.memRead j := by
  have hne : j.toNat ≠ i.toNat := mt BitVec.eq_of_toNat_eq h
  rw [State.memRead, State.placeByte_payload, Memory.get?_set_other _ _ hne, State.memRead]

/-! ### One step -/

/-- The host's placing of a byte is the step (R158). -/
theorem step_place {s : State} {i : Addr} {b : Byte} {rest : List Stimulus} (hin : s.inputs = .place i b :: rest) :
    step s = .next ((s.withInputs rest).placeByte i b) := by
  simp only [step, hin, stimulate, placeStep]

/-- All that a step can do to the payload: nothing, or place the byte that the schedule names. -/
theorem step_payload {s t : State} (h : step s = .next t) :
    t.payload = s.payload ∨
      ∃ i b rest, s.inputs = .place i b :: rest ∧ t.payload = (s.placeByte i b).payload := by
  rcases step_cases h with
    ⟨_, _, _, htick⟩ | ⟨i, b, rest, hin, rfl⟩ | ⟨_, _, rfl⟩ | ⟨_, _, _, _, _, _, _, hexec⟩
  · exact .inl (tick_keeps htick).2
  · exact .inr ⟨i, b, rest, hin, rfl⟩
  · exact .inl s.popped.losePower_payload
  · exact .inl ((exec_payload hexec).trans (s.withInputs_payload _))

/-- Settles O53: a step leaves the payload alone or places a byte in it, and placing keeps the canonical form. -/
theorem stepKeepsPayloadCanonical : Obligations.StepKeepsPayloadCanonical := by
  intro s t hwf hstep
  rcases step_payload hstep with hsame | ⟨i, b, _, _, hplaced⟩
  · exact hsame ▸ hwf
  · exact hplaced ▸ State.placeByte_wf i b hwf

/-- Settles O54: of the two things a step can do to the payload, the schedule excludes the placing of a byte. -/
theorem blockWritesNoMemory : Obligations.BlockWritesNoMemory := by
  intro s t hnotPlace hstep
  have hsame : t.payload = s.payload :=
    (step_payload hstep).resolve_right fun ⟨i, b, rest, hin, _⟩ => hnotPlace i b rest hin
  exact ⟨hsame, State.memRead_congr hsame⟩

/-- Settles O19: the index named is the first of the slice that is not below `LENL`. -/
theorem blkDataOutsidePayloadFaults : Obligations.BlkDataOutsidePayloadFaults := by
  intro s hout hpos
  have hguard : ¬ (s.blen = 0 ∨ s.pcurAfter ≤ s.lenl.toNat) := by
    rintro (h0 | hfit)
    · simp [h0] at hpos
    · exact Nat.not_le.2 hout hfit
  exact ⟨max s.pcur.toNat s.lenl.toNat, if_neg hguard, Nat.le_max_right _ _, Nat.le_max_left _ _,
    Nat.max_lt.2 ⟨Nat.lt_add_of_pos_right hpos, hout⟩⟩

/-- Settles O55: the step is the placing of the byte, and the payload memory is read after a write. -/
theorem placedByteReadsBack : Obligations.PlacedByteReadsBack := by
  intro s i b rest hin
  refine ⟨_, step_place hin, State.placeByte_memRead_same _ i b, fun j hj => ?_, rfl⟩
  calc ((s.withInputs rest).placeByte i b).memRead j
      = (s.withInputs rest).memRead j := State.placeByte_memRead_other _ b hj
    _ = s.memRead j := State.memRead_congr (s.withInputs_payload rest) j

end Sys2Proof.Machine
end

section
/-! The two lower wire formats (R70, R71): the pulse pair and the frame, with what their decoders make of them. -/

namespace Sys2Proof

/-! ### Format P: the pulse pair -/

/-- A pulse pair in front of segments that decode is read as its bit (R70). -/
theorem decodePulses_pulse_append {segs : List Segment} {bits : List Bool} (v : Bool)
    (h : decodePulses segs = .ok bits) : decodePulses (pulse v ++ segs) = .ok (v :: bits) := by
  cases v <;> simp [pulse, bitDur, decodePulses, h]

@[simp] theorem decodePulses_flatMap_pulse (bits : List Bool) : decodePulses (bits.flatMap pulse) = .ok bits := by
  induction bits with
  | nil => rfl
  | cons v bits ih => exact decodePulses_pulse_append v ih

@[simp] theorem pulse_length (v : Bool) : (pulse v).length = 2 := rfl

/-- Settles O9, by induction on the bits. -/
theorem pulsePairsDecode : Obligations.PulsePairsDecode :=
  decodePulses_flatMap_pulse

/-! ### Format F: the frame -/

/-- R88: bit `k` of the value is element `k` of the list. -/
theorem testBit_bitsValue (bits : List Bool) (k : Nat) : (bitsValue bits).testBit k = bits.getD k false := by
  induction bits generalizing k with
  | nil => simp [bitsValue]
  | cons v bits ih =>
    have hbit : bitsValue (v :: bits) = Nat.bit v (bitsValue bits) := by
      cases v <;> simp [bitsValue, Nat.bit_val, Nat.add_comm]
    cases k with
    | zero => simp [hbit]
    | succ k => simp [hbit, Nat.testBit_bit_succ, ih]

/-- The bits of a byte, least significant first, have the byte as their value (R13). -/
theorem ofNat_bitsValue_bits (b : Byte) :
    BitVec.ofNat 8 (bitsValue ((List.range 8).map b.getLsbD)) = b := by
  refine BitVec.eq_of_getLsbD_eq fun k hk => ?_
  rw [BitVec.getLsbD_ofNat, testBit_bitsValue]
  simp [List.getD_eq_getElem?_getD, hk]

/-- R71: start bit 0, the eight bits of the byte, stop bit 1. -/
theorem frameBits_eq (b : Byte) : frameBits b = false :: ((List.range 8).map b.getLsbD ++ [true]) := rfl

@[simp] theorem frameBits_length (b : Byte) : (frameBits b).length = 10 := by
  simp [frameBits]

/-- A frame in front of any bits is read as its byte, and the bits are left (R88). -/
theorem decodeFrame_frameBits_append (b : Byte) (rest : List Bool) :
    decodeFrame (frameBits b ++ rest) = .ok (b, rest) :=
  congrArg (fun b' => Except.ok (b', rest)) (ofNat_bitsValue_bits b)

theorem wireBits_cons (b : Byte) (bytes : List Byte) : wireBits (b :: bytes) = frameBits b ++ wireBits bytes :=
  List.flatMap_cons

@[simp] theorem wireBits_length (bytes : List Byte) : (wireBits bytes).length = 10 * bytes.length := by
  simp [wireBits, List.length_flatMap, Nat.mul_comm]

@[simp] theorem wireSegments_length (bytes : List Byte) : (wireSegments bytes).length = 20 * bytes.length := by
  simp [wireSegments, List.length_flatMap]
  omega

/-- A run of frames goes on with the next frame, if the fuel allows one more. -/
theorem decodeFramesFuel_succ {fuel : Nat} {bits rest : List Bool} {b : Byte} {bytes : List Byte}
    (hb : decodeFrame bits = .ok (b, rest)) (hrest : decodeFramesFuel fuel rest = .ok bytes) :
    decodeFramesFuel (fuel + 1) bits = .ok (b :: bytes) := by
  cases bits with
  | nil => cases hb
  | cons v bits => simp only [decodeFramesFuel, hb, hrest]

/-- Fuel for each byte suffices. -/
theorem decodeFramesFuel_wireBits {fuel : Nat} {bytes : List Byte} (h : bytes.length ≤ fuel) :
    decodeFramesFuel fuel (wireBits bytes) = .ok bytes := by
  induction bytes generalizing fuel with
  | nil => cases fuel <;> rfl
  | cons b bytes ih =>
    obtain ⟨fuel, rfl⟩ := Nat.exists_eq_add_of_le' (Nat.le_trans (Nat.le_add_left 1 bytes.length) h)
    exact decodeFramesFuel_succ (decodeFrame_frameBits_append b _) (ih (Nat.le_of_succ_le_succ h))

@[simp] theorem decodeFrames_wireBits (bytes : List Byte) : decodeFrames (wireBits bytes) = .ok bytes :=
  decodeFramesFuel_wireBits (by rw [wireBits_length]; omega)

/-- Settles O12: each frame is read whole, and the number of bits is fuel enough for the number of bytes. -/
theorem framesDecode : Obligations.FramesDecode :=
  decodeFrames_wireBits

end Sys2Proof
end

section
/-! The block packet (R72): its length, its checksum, and what the decoder of R79 makes of it. -/

namespace Sys2Proof

/-- R74: the length byte of a block of at most 16 bytes has not wrapped. -/
theorem lenByte_toNat {n : Nat} (h : n ≤ 16) : (lenByte n).toNat = n + 2 := by
  simp only [lenByte, Config.lenOffset, BitVec.toNat_ofNat]
  omega

/-- R75: the address is its high byte above its low byte. -/
theorem hiByte_append_loByte (a : Addr) : (hiByte a ++ loByte a : Addr) = a := by
  refine BitVec.eq_of_getLsbD_eq fun k hk => ?_
  rw [BitVec.getLsbD_append]
  by_cases hlow : k < 8
  · simp [loByte, hlow]
  · have hhigh : k - 8 < 8 := by omega
    have hback : 8 + (k - 8) = k := by omega
    simp [hiByte, hlow, hhigh, hback]

/-- R77: any bytes and the negation of their sum add up to 0. -/
theorem sum8_append_neg8 (l : List Byte) : sum8 (l ++ [neg8 (sum8 l)]) = 0 := by
  rw [Machine.sum8_append, Machine.sum8_cons, Machine.sum8_nil, add_zero, Machine.add_neg8]

@[simp] theorem blockBytes_length (a : Addr) (d : List Byte) : (blockBytes a d).length = d.length + 6 := by
  simp [blockBytes, countedBytes]

/-- A packet of 1 to 16 data bytes in front of any bytes is read as its address and its data, and the bytes are left
(R77, R79). -/
theorem decodeBlock_blockBytes_append (a : Addr) {d : List Byte} (rest : List Byte) (hpos : 1 ≤ d.length)
    (hle : d.length ≤ 16) : decodeBlock (blockBytes a d ++ rest) = .ok ((a, d), rest) := by
  have hlen : (lenByte d.length).toNat = d.length + 2 := lenByte_toNat hle
  have hrange : ¬ (d.length + 2 < 3 ∨ 18 < d.length + 2) := by omega
  have hsum := sum8_append_neg8 (countedBytes a d)
  simp only [countedBytes, List.cons_append, List.nil_append] at hsum
  simp [blockBytes, countedBytes, decodeBlock, hlen, hrange, Config.lenOffset, hsum, hiByte_append_loByte]

/-- Settles O26: the length byte gives back the number of data bytes, and the checksum verifies. -/
theorem blockPacketDecodes : Obligations.BlockPacketDecodes :=
  fun a d rest hpos hle => ⟨blockBytes_length a d, decodeBlock_blockBytes_append a rest hpos hle⟩

end Sys2Proof
end

section
/-! The split into blocks (R136) and the stream (R73): the counts of R89, and what the decoder of the stream makes
of it. -/

namespace Sys2Proof

/-! ### The split, and its induction -/

/-- At the end of the payload the split is over, whatever the fuel. -/
theorem splitFuel_of_le {len p : Nat} (h : len ≤ p) (fuel a : Nat) : splitFuel len fuel a p = [] := by
  cases fuel with
  | zero => rfl
  | succ fuel => exact if_pos h

/-- Before the end of the payload the split goes on with one block. -/
theorem splitFuel_succ_of_lt {len p : Nat} (h : p < len) (fuel a : Nat) :
    splitFuel len (fuel + 1) a p =
      ⟨a, p, blockLength (len - p) a⟩ ::
        splitFuel len fuel (a + blockLength (len - p) a) (p + blockLength (len - p) a) :=
  if_neg (Nat.not_le.2 h)

/-- What holds of no blocks at the end of the payload, and of one more block before it, holds of every split that has
fuel for each byte left. -/
theorem splitFuel_induction {len : Nat} {P : (a p : Nat) → List Slice → Prop} (done : ∀ a p, len ≤ p → P a p [])
    (block : ∀ a p n rest, p < len → n = blockLength (len - p) a → P (a + n) (p + n) rest → P a p (⟨a, p, n⟩ :: rest))
    {fuel a p : Nat} (hfuel : len - p ≤ fuel) : P a p (splitFuel len fuel a p) := by
  induction fuel generalizing a p with
  | zero => exact done a p (Nat.le_of_sub_eq_zero (Nat.le_zero.1 hfuel))
  | succ fuel ih =>
    by_cases hp : p < len
    · have hpos := (Machine.blockLength_range a (Nat.sub_pos_of_lt hp)).1
      rw [splitFuel_succ_of_lt hp]
      exact block a p _ _ hp rfl (ih (by omega))
    · rw [splitFuel_of_le (Nat.not_lt.1 hp)]
      exact done a p (Nat.not_lt.1 hp)

/-- Every block of a split has 1 to 16 bytes (R131). -/
theorem splitFuel_len_range {len fuel a p : Nat} (hfuel : len - p ≤ fuel) :
    ∀ sl ∈ splitFuel len fuel a p, 1 ≤ sl.len ∧ sl.len ≤ 16 := by
  refine splitFuel_induction (P := fun _ _ sls => ∀ sl ∈ sls, 1 ≤ sl.len ∧ sl.len ≤ 16) (fun _ _ _ => nofun) ?_ hfuel
  rintro a p n rest hp rfl ih
  obtain ⟨hpos, hle, -, -⟩ := Machine.blockLength_range a (Nat.sub_pos_of_lt hp)
  exact List.forall_mem_cons.2 ⟨⟨hpos, hle⟩, ih⟩

/-- One block takes the bytes up to the next multiple of 16, so it lowers the count of R89 by one. -/
theorem blockCount_step {remaining : Nat} (a : Nat) (h : 0 < remaining) :
    Machine.blockCount a remaining =
      Machine.blockCount (a + blockLength remaining a) (remaining - blockLength remaining a) + 1 := by
  have hn : blockLength remaining a = min remaining (16 - a % 16) := rfl
  have hlast : remaining - blockLength remaining a = 0 ∨ (a + blockLength remaining a) % 16 = 0 := by omega
  rw [Machine.blockCount, if_neg h.ne', Machine.blockCount, Config.alignUnit]
  split <;> omega

/-- R89: the number of blocks. -/
theorem splitFuel_length {len fuel a p : Nat} (hfuel : len - p ≤ fuel) :
    (splitFuel len fuel a p).length = Machine.blockCount a (len - p) := by
  refine splitFuel_induction (P := fun a p sls => sls.length = Machine.blockCount a (len - p)) ?_ ?_ hfuel
  · intro a p hp
    simp [Machine.blockCount, Nat.sub_eq_zero_of_le hp]
  · rintro a p n rest hp rfl ih
    rw [blockCount_step a (Nat.sub_pos_of_lt hp), List.length_cons, ih, Nat.sub_add_eq]

/-! ### The data and the packets of the blocks -/

@[simp] theorem Slice.data_length (payload : Nat → Byte) (sl : Slice) : (sl.data payload).length = sl.len := by
  simp [Slice.data]

theorem Slice.data_eq_range' (payload : Nat → Byte) (sl : Slice) :
    sl.data payload = (List.range' sl.first sl.len).map payload := by
  simp [Slice.data, List.range'_eq_map_range]

/-- R138: the blocks of a split hold the payload from its cursor on, in order. -/
theorem splitFuel_data {len fuel a p : Nat} (payload : Nat → Byte) (hfuel : len - p ≤ fuel) :
    (splitFuel len fuel a p).flatMap (Slice.data payload) = (List.range' p (len - p)).map payload := by
  refine splitFuel_induction
    (P := fun _ p sls => sls.flatMap (Slice.data payload) = (List.range' p (len - p)).map payload) ?_ ?_ hfuel
  · intro a p hp
    simp [Nat.sub_eq_zero_of_le hp]
  · rintro a p n rest hp rfl ih
    obtain ⟨-, -, hle, -⟩ := Machine.blockLength_range a (Nat.sub_pos_of_lt hp)
    rw [List.flatMap_cons, ih, Slice.data_eq_range', ← List.map_append, List.range'_append_1]
    congr 2
    dsimp only
    omega

/-- R138: the blocks of a whole split hold the whole payload, in order. -/
theorem split_data (base len : Nat) (payload : Nat → Byte) :
    (split base len).flatMap (Slice.data payload) = (List.range len).map payload := by
  rw [split, splitFuel_data payload (Nat.sub_le len 0), List.range_eq_range', Nat.sub_zero]

/-- Each packet has six bytes besides its data (R72). -/
theorem flatMap_packet_length (payload : Nat → Byte) (sls : List Slice) :
    (sls.flatMap (Slice.packet payload)).length = (sls.flatMap (Slice.data payload)).length + 6 * sls.length := by
  induction sls with
  | nil => rfl
  | cons sl sls ih =>
    simp only [List.flatMap_cons, List.length_append, List.length_cons, ih, Slice.packet, blockBytes_length]
    omega

/-- R89: the number of bytes of a stream. -/
theorem stream_length (base len : Nat) (payload : Nat → Byte) :
    (stream base len payload).length = Machine.streamLength base len := by
  have hblocks : (split base len).length = Machine.blockCount base len := splitFuel_length (Nat.sub_le len 0)
  simp only [stream, List.length_append, flatMap_packet_length, split_data, hblocks, List.length_map,
    List.length_range, Machine.streamLength, preambleBytes, trailerBytes, List.length_cons, List.length_nil]
  omega

/-- The first block of a transfer that has one (R131). -/
theorem split_head? {base len : Nat} (h : 0 < len) :
    (split base len).head? = some ⟨base, 0, blockLength len base⟩ := by
  obtain ⟨fuel, rfl⟩ := Nat.exists_eq_add_of_le' h
  rw [split, splitFuel_succ_of_lt h]
  rfl

/-- Settles O28: every count follows from the number of blocks and the data they hold. -/
theorem streamHasTheStatedCounts : Obligations.StreamHasTheStatedCounts :=
  fun base len payload => ⟨splitFuel_length (Nat.sub_le len 0), stream_length base len payload, wireBits_length _,
    wireSegments_length _, fun hlen => congrArg (Option.map Slice.len) (split_head? hlen)⟩

/-! ### Decoding a stream -/

/-- What the packet of a block carries: its address and its data (R72). -/
def Slice.carried (payload : Nat → Byte) (sl : Slice) : Addr × List Byte :=
  (BitVec.ofNat 16 sl.addr, sl.data payload)

theorem decodeBlock_packet_append (payload : Nat → Byte) {sl : Slice} (rest : List Byte) (hpos : 1 ≤ sl.len)
    (hle : sl.len ≤ 16) : decodeBlock (sl.packet payload ++ rest) = .ok (sl.carried payload, rest) :=
  decodeBlock_blockBytes_append _ rest (by simpa using hpos) (by simpa using hle)

/-- The second byte of a packet tells it from the trailer (R78). -/
theorem packet_append_ne_trailer (payload : Nat → Byte) (sl : Slice) (rest : List Byte) :
    sl.packet payload ++ rest ≠ trailerBytes := by
  simp [Slice.packet, blockBytes, trailerBytes, Config.markBlock, Config.markEnd]

/-- Packets of blocks of 1 to 16 bytes, up to the trailer, decode to what they carry. -/
theorem decodeBlocksFuel_packets {payload : Nat → Byte} {sls : List Slice} {fuel : Nat}
    (hsls : ∀ sl ∈ sls, 1 ≤ sl.len ∧ sl.len ≤ 16) (hfuel : sls.length < fuel) :
    decodeBlocksFuel fuel (sls.flatMap (Slice.packet payload) ++ trailerBytes) =
      .ok (sls.map (Slice.carried payload)) := by
  induction sls generalizing fuel with
  | nil =>
    obtain ⟨fuel, rfl⟩ := Nat.exists_eq_add_of_le' hfuel
    exact if_pos rfl
  | cons sl sls ih =>
    obtain ⟨⟨hpos, hle⟩, hrest⟩ := List.forall_mem_cons.1 hsls
    obtain ⟨fuel, rfl⟩ := Nat.exists_eq_add_of_le' (Nat.zero_lt_of_lt hfuel)
    rw [List.flatMap_cons, List.append_assoc, decodeBlocksFuel, if_neg (packet_append_ne_trailer payload sl _),
      decodeBlock_packet_append payload _ hpos hle]
    simp only [ih hrest (Nat.lt_of_succ_lt_succ hfuel), List.map_cons]

/-- R138: a stream decodes to what the blocks of its split carry. -/
theorem decodeStream_stream (base len : Nat) (payload : Nat → Byte) :
    decodeStream (stream base len payload) = .ok ((split base len).map (Slice.carried payload)) := by
  have hfuel : (split base len).length <
      ((split base len).flatMap (Slice.packet payload) ++ trailerBytes).length + 1 := by
    rw [List.length_append, flatMap_packet_length]
    omega
  exact decodeBlocksFuel_packets (splitFuel_len_range (Nat.sub_le len 0)) hfuel

/-- R138: what the blocks of a stream carry is the payload, in order. -/
theorem flatMap_carried_data (base len : Nat) (payload : Nat → Byte) :
    ((split base len).map (Slice.carried payload)).flatMap Prod.snd = (List.range len).map payload :=
  (List.flatMap_map ..).trans (split_data base len payload)

end Sys2Proof
end

section
/-! The whole transfer (R136): the bytes that its parts send, and its segments decoded layer by layer. -/

namespace Sys2Proof.Machine

/-! ### What sending shows, part by part -/

/-- The fields that no sending changes. -/
def State.unsent (s : State) : (Bool × Len × BitVec 5) × Memory × List Stimulus × Bool × Nat :=
  ((s.err, s.lenl, s.bidx), s.payload, s.inputs, s.live, s.powerLosses)

/-- From `s` to `t` the bytes were sent: all three traces show them (R12), and what no sending changes is as before. -/
structure State.Sent (s t : State) (bytes : List Byte) : Prop where
  unsent : t.unsent = s.unsent
  byteTrace : t.byteTrace = s.byteTrace ++ bytes
  bitTrace : t.bitTrace = s.bitTrace ++ wireBits bytes
  lTrace : t.lTrace = s.lTrace ++ wireSegments bytes

theorem State.Sent.refl (s : State) : s.Sent s [] where
  unsent := rfl
  byteTrace := (List.append_nil _).symm
  bitTrace := (List.append_nil _).symm
  lTrace := (List.append_nil _).symm

theorem State.Sent.trans {s t u : State} {bs cs : List Byte} (h : s.Sent t bs) (h' : t.Sent u cs) :
    s.Sent u (bs ++ cs) where
  unsent := h'.unsent.trans h.unsent
  byteTrace := by rw [h'.byteTrace, h.byteTrace, List.append_assoc]
  bitTrace := by rw [h'.bitTrace, h.bitTrace, wireBits_append, List.append_assoc]
  lTrace := by rw [h'.lTrace, h.lTrace, wireSegments_append, List.append_assoc]

/-- Entering a phase sends nothing. -/
theorem State.Sent.enter {s t : State} {bytes : List Byte} (h : s.Sent t bytes) (p : Phase) :
    s.Sent (t.enter p) bytes :=
  ⟨h.unsent, h.byteTrace, h.bitTrace, h.lTrace⟩

theorem State.sent_sendBytes (s : State) (bytes : List Byte) (count : Bool) :
    s.Sent (s.sendBytes bytes count) bytes := by
  obtain ⟨_, _, _, _, _, h⟩ := State.sendBytes_frame s bytes count
  rw [h]
  exact ⟨rfl, rfl, rfl, rfl⟩

theorem State.sent_sendBlock (s : State) : s.Sent s.sendBlock (blockBytes s.addr s.nextData) := by
  rw [State.sendBlock_eq]
  exact ⟨rfl, rfl, rfl, rfl⟩

/-! ### The loop over the blocks -/

/-- What the payload reads as depends on the payload memory alone. -/
theorem State.payloadAt_congr {s t : State} (h : t.payload = s.payload) : t.payloadAt = s.payloadAt :=
  funext fun i => State.memRead_congr h (BitVec.ofNat 16 i)

theorem State.sendBlock_lenl (s : State) : s.sendBlock.lenl = s.lenl := by
  rw [State.sendBlock_eq]

theorem State.sendBlock_addr {s : State} {a : Nat} (ha : s.addr = BitVec.ofNat 16 a) :
    s.sendBlock.addr = BitVec.ofNat 16 (a + s.nextBlen.toNat) := by
  rw [State.sendBlock_eq]
  exact BitVec.eq_of_toNat_eq (by simp [ha])

/-- `PCUR` moves past the block without wrap (R25, R129). -/
theorem State.sendBlock_pcur_toNat {s : State} (h : s.pcur.toNat < s.lenl.toNat) :
    s.sendBlock.pcur.toNat = s.pcur.toNat + blockLength (s.lenl.toNat - s.pcur.toNat) s.addr.toNat := by
  have hlenl := s.lenl.isLt
  obtain ⟨-, -, hle, -⟩ := blockLength_range s.addr.toNat (Nat.sub_pos_of_lt h)
  rw [State.sendBlock_eq, BitVec.toNat_ofNat, State.nextBlen_toNat h]
  omega

/-- The bytes of the blocks still to be sent, from the natural address `a` on (R136). -/
def State.packetsLeft (s : State) (fuel a : Nat) : List Byte :=
  (splitFuel s.lenl.toNat fuel a s.pcur.toNat).flatMap (Slice.packet s.payloadAt)

theorem State.packetsLeft_of_le {s : State} (h : s.lenl.toNat ≤ s.pcur.toNat) (fuel a : Nat) :
    s.packetsLeft fuel a = [] := by
  rw [State.packetsLeft, splitFuel_of_le h, List.flatMap_nil]

/-- The packet that `BLOCK` sends is the first of those still to be sent. -/
theorem State.packetsLeft_succ {s : State} (h : s.pcur.toNat < s.lenl.toNat) (fuel : Nat) :
    s.packetsLeft (fuel + 1) s.addr.toNat =
      blockBytes s.addr s.nextData ++ s.sendBlock.packetsLeft fuel (s.addr.toNat + s.nextBlen.toNat) := by
  have hfirst : Slice.packet s.payloadAt ⟨s.addr.toNat, s.pcur.toNat, s.nextBlen.toNat⟩ =
      blockBytes s.addr s.nextData := by
    rw [Slice.packet, BitVec.ofNat_toNat, BitVec.setWidth_eq]
    rfl
  rw [State.packetsLeft, State.packetsLeft, splitFuel_succ_of_lt h, List.flatMap_cons, s.sendBlock_lenl,
    State.sendBlock_pcur_toNat h, State.payloadAt_congr s.sendBlock_payload, ← State.nextBlen_toNat h, hfirst]

/-- R136: the loop sends the packets of the split. `a` is the natural address in `ADDR`, which wraps past the last
block at most. -/
theorem State.sent_sendBlocks {s : State} {a : Nat} (ha : s.addr = BitVec.ofNat 16 a)
    (hfit : a + (s.lenl.toNat - s.pcur.toNat) ≤ 65536) (fuel : Nat) :
    s.Sent (s.sendBlocks fuel) (s.packetsLeft fuel a) := by
  induction fuel generalizing s a with
  | zero => exact State.Sent.refl s
  | succ fuel ih =>
    rw [State.sendBlocks]
    split
    case isTrue hlt =>
      have ha16 : s.addr.toNat = a := by
        rw [ha, BitVec.toNat_ofNat]
        omega
      have hpcur := State.sendBlock_pcur_toNat hlt
      have hn := State.nextBlen_toNat hlt
      have hfit' : a + s.nextBlen.toNat + (s.sendBlock.lenl.toNat - s.sendBlock.pcur.toNat) ≤ 65536 := by
        obtain ⟨-, -, hle, -⟩ := blockLength_range s.addr.toNat (Nat.sub_pos_of_lt hlt)
        rw [s.sendBlock_lenl]
        omega
      have hbytes := State.packetsLeft_succ hlt fuel
      rw [ha16] at hbytes
      rw [hbytes]
      exact s.sent_sendBlock.trans (ih (State.sendBlock_addr ha) hfit')
    case isFalse hend =>
      rw [State.packetsLeft_of_le (Nat.not_lt.1 hend)]
      exact State.Sent.refl s

/-- With the cursors at the beginning of a transfer that fits the target space, the loop sends its whole split. -/
theorem State.sent_sendBlocks_of_start {s : State} {base : Addr} {len : Len} (hstart : s.cursors = (base, 0, len))
    (hfit : base.toNat + len.toNat ≤ 65536) :
    s.Sent (s.sendBlocks len.toNat) ((split base.toNat len.toNat).flatMap (Slice.packet s.payloadAt)) := by
  obtain ⟨haddr, hpcur, hlenl⟩ : s.addr = base ∧ s.pcur = 0 ∧ s.lenl = len := by
    simpa [State.cursors] using hstart
  have hbytes : s.packetsLeft len.toNat base.toNat =
      (split base.toNat len.toNat).flatMap (Slice.packet s.payloadAt) := by
    rw [State.packetsLeft, hlenl, hpcur]
    rfl
  rw [← hbytes]
  exact State.sent_sendBlocks (by simp [haddr]) (by simpa [hlenl, hpcur] using hfit) _

/-! ### `TRANSMIT` -/

theorem State.sendBytes_cursors (s : State) (bytes : List Byte) (count : Bool) :
    (s.sendBytes bytes count).cursors = s.cursors := by
  obtain ⟨_, _, _, _, _, h⟩ := State.sendBytes_frame s bytes count
  rw [h]
  rfl

/-- R136: from the latched cursors on, a transfer that fits the target space sends its stream. -/
theorem State.sent_transmit (s : State) {base : Addr} {len : Len} (hfit : base.toNat + len.toNat ≤ 65536) :
    (s.latch base len).Sent (s.transmit base len) (stream base.toNat len.toNat s.payloadAt) := by
  have hpreamble : (s.latch base len).Sent (s.latch base len).sendPreamble preambleBytes := State.sent_sendBytes ..
  have hblocks := State.sent_sendBlocks_of_start (s := (s.latch base len).sendPreamble)
    (State.sendBytes_cursors ..) hfit
  have hpayload : (s.latch base len).sendPreamble.payloadAt = s.payloadAt :=
    State.payloadAt_congr (State.sendBytes_payload ..)
  rw [hpayload] at hblocks
  exact (((hpreamble.trans hblocks).enter .trailer).trans (State.sent_sendBytes _ trailerBytes false)).enter .done

theorem exec_transmit {base : Addr} {len : Len} (s : State) (hfit : base.toNat + len.toNat ≤ 65536) :
    exec (.transmit base len) s = .next (s.transmit base len) :=
  if_pos ((fitsTarget_iff base len).2 hfit)

/-- Settles O34: `TRANSMIT` sends the segments of the stream, and each layer is undone by its decoder. -/
theorem transmittedSegmentsDecodeToPayload : Obligations.TransmittedSegmentsDecodeToPayload := by
  intro s base len hfit
  have htrace : (s.transmit base len).lTrace =
      s.lTrace ++ wireSegments (stream base.toNat len.toNat s.payloadAt) := (s.sent_transmit hfit).lTrace
  exact ⟨_, _, _, _, _, exec_transmit s hfit, htrace, decodePulses_flatMap_pulse _, decodeFrames_wireBits _,
    decodeStream_stream base.toNat len.toNat s.payloadAt, flatMap_carried_data base.toNat len.toNat s.payloadAt⟩

end Sys2Proof.Machine
end

section
/-! The Bit Transmitter (R100, R101, R107): the pulse pair of `SEND_BIT`, and the levels of a bit period by period. -/

namespace Sys2Proof.Machine

/-! ### `SEND_BIT` at the abstract level -/

/-- What `SEND_BIT` does (R100, R101), with `HALF` and `TIMER` as the clocked machine leaves them (log 3). -/
theorem State.sendBit_eq (s : State) (v : Bool) :
    s.sendBit v =
      { s with
        line := false, half := true, timer := 1, bitTrace := s.bitTrace ++ [v], lTrace := s.lTrace ++ pulse v } := by
  have hone := State.sendBits_eq s v []
  rwa [List.flatMap_singleton] at hone

theorem exec_sendBit1 (s : State) : exec .sendBit1 s = .next (s.sendBit true) := rfl

theorem exec_sendBit0 (s : State) : exec .sendBit0 s = .next (s.sendBit false) := rfl

/-- Settles O8: `SEND_BIT` by its equation, with the pulse pair of each bit. -/
theorem sendBitDrivesOnePulsePair : Obligations.SendBitDrivesOnePulsePair := fun s =>
  ⟨⟨true, 1, (exec_sendBit1 s).trans (congrArg Host.Outcome.next (s.sendBit_eq true))⟩,
    ⟨true, 1, (exec_sendBit0 s).trans (congrArg Host.Outcome.next (s.sendBit_eq false))⟩⟩

/-! ### The clock edges of a bit -/

/-- `s` is in the middle of a frame, and nothing but clock edges without reset is to come. -/
structure State.Sending (s : State) : Prop where
  live : s.live = true
  busy : s.busy = true
  bitpos_le : s.bitpos.toNat ≤ 9
  undisturbed : Undisturbed s.inputs

/-- `s` after `j` more periods of the segment in progress: `j` stimuli are taken and `TIMER` is lower by `j` (R107). -/
def State.elapse (s : State) (j : Nat) : State :=
  { s with inputs := s.inputs.drop j, timer := s.timer - j }

@[simp] theorem State.elapse_zero (s : State) : s.elapse 0 = s := rfl

@[simp] theorem State.elapse_timer (s : State) (j : Nat) : (s.elapse j).timer = s.timer - j := rfl

/-- A count of one period takes one stimulus. -/
theorem State.elapse_one (s : State) : s.elapse 1 = { s.popped with timer := s.timer - 1 } := by
  rw [State.elapse, List.drop_one]
  rfl

theorem State.elapse_elapse (s : State) (j k : Nat) : (s.elapse j).elapse k = s.elapse (j + k) := by
  simp [State.elapse, Nat.sub_sub]

theorem Undisturbed.drop {xs : List Stimulus} (h : Undisturbed xs) (j : Nat) : Undisturbed (xs.drop j) :=
  fun x hx => h x (List.mem_of_mem_drop hx)

/-- The next step of an undisturbed schedule is a clock edge without reset, whether the schedule is empty or not. -/
theorem Undisturbed.edgeNext {s : State} (h : Undisturbed s.inputs) : ∃ p, EdgeNext s p ∧ p.rst = false := by
  cases hin : s.inputs with
  | nil => exact ⟨.quiet, .quiet hin rfl, rfl⟩
  | cons x rest =>
    obtain ⟨p, rfl, hrst⟩ := h x (by simp [hin])
    exact ⟨p, .scheduled rest hin, hrst⟩

theorem State.Sending.elapse {s : State} (h : s.Sending) (j : Nat) : (s.elapse j).Sending :=
  ⟨h.live, h.busy, h.bitpos_le, h.undisturbed.drop j⟩

theorem State.Sending.endHighHalf {s : State} (h : s.Sending) (c : Config.Timing) : (s.endHighHalf c).Sending :=
  ⟨h.live, h.busy, h.bitpos_le, h.undisturbed⟩

/-- In the middle of a frame a step is an edge of the busy machine (R146). -/
theorem State.Sending.step_eq {s : State} (h : s.Sending) : ∃ p, step s = busyTick Config.timing p s.popped := by
  obtain ⟨p, hedge, hrst⟩ := h.undisturbed.edgeNext
  have hbusy : s.popped.busy = true := h.busy
  refine ⟨p, (step_edge hedge h.live).trans ?_⟩
  rw [tick, hrst, if_neg Bool.false_ne_true, if_pos hbusy]

/-- An edge inside a segment counts one period (R107). -/
theorem State.Sending.step_countdown {s : State} (h : s.Sending) (ht : 1 < s.timer) :
    step s = .next (s.elapse 1) := by
  obtain ⟨p, hstep⟩ := h.step_eq
  rw [hstep, State.elapse_one]
  exact busyTick_countdown (s := s.popped) h.bitpos_le ht

/-- The edge in the last period of a high half lets the line fall (R107). -/
theorem State.Sending.step_endHighHalf {s : State} (h : s.Sending) (ht : s.timer ≤ 1) (hh : s.half = false) :
    step s = .next ((s.elapse 1).endHighHalf Config.timing) := by
  obtain ⟨p, hstep⟩ := h.step_eq
  rw [hstep, State.elapse_one]
  exact busyTick_endHighHalf (s := s.popped) h.bitpos_le ht hh

/-! ### The periods of a segment and of a bit -/

/-- For as long as the segment in progress lasts, its periods only elapse (R107). -/
theorem State.Sending.run_elapse {s : State} (h : s.Sending) {j : Nat} (hj : j < s.timer) :
    Host.Core.run Sys2Proof.core j s = .next (s.elapse j) := by
  induction j with
  | zero => rw [run_zero, State.elapse_zero]
  | succ j ih =>
    have hleft : 1 < (s.elapse j).timer := by rw [State.elapse_timer]; omega
    rw [run_add (ih (Nat.lt_of_succ_lt hj)), run_succ ((h.elapse j).step_countdown hleft), run_zero,
      State.elapse_elapse]

/-- When all periods of the high half have elapsed, the low half of the same bit begins (R107). -/
theorem State.Sending.run_highHalf {s : State} (h : s.Sending) (hh : s.half = false) (hpos : 0 < s.timer) :
    Host.Core.run Sys2Proof.core s.timer s = .next ((s.elapse s.timer).endHighHalf Config.timing) := by
  obtain ⟨n, hn⟩ := Nat.exists_eq_add_one.2 hpos
  have hbefore : Host.Core.run Sys2Proof.core n s = .next (s.elapse n) := h.run_elapse (by omega)
  have hlast : step (s.elapse n) = .next (((s.elapse n).elapse 1).endHighHalf Config.timing) :=
    (h.elapse n).step_endHighHalf (by rw [State.elapse_timer]; omega) hh
  rw [hn, run_add hbefore, run_succ hlast, run_zero, State.elapse_elapse]

/-- After the high half, the periods of the low half elapse in the same way (R107). -/
theorem State.Sending.run_lowHalf {s : State} (h : s.Sending) (hh : s.half = false) (hpos : 0 < s.timer) {k : Nat}
    (hk : k < bitPeriods Config.timing s.currentBit) :
    Host.Core.run Sys2Proof.core (s.timer + k) s =
      .next (((s.elapse s.timer).endHighHalf Config.timing).elapse k) :=
  (run_add (h.run_highHalf hh hpos) k).trans (((h.elapse s.timer).endHighHalf Config.timing).run_elapse hk)

/-- `N(v)` is `N_SHORT` for a 1 and `N_LONG` for a 0 (R107). -/
theorem bitPeriods_eq (c : Config.Timing) (v : Bool) : bitPeriods c v = if v then c.nShort else c.nLong := by
  cases v <;> rfl

/-- Settles O40: the high half elapses, the line falls, and the low half, which has the same number of periods, elapses
too. -/
theorem bitHoldsItsLevelsForItsPeriods : Obligations.BitHoldsItsLevelsForItsPeriods := by
  intro s hlive hbusy hbitpos hhalf hline htimer hinputs
  have hsending : s.Sending := ⟨hlive, hbusy, hbitpos, hinputs⟩
  have hperiods : bitPeriods Config.timing s.currentBit = s.timer := by rw [bitPeriods_eq, htimer]
  have hpos : 0 < s.timer := hperiods ▸ (bitPeriods_range Config.timing s.currentBit).1
  refine ⟨fun j hj => ⟨s.elapse j, hsending.run_elapse hj, hline, rfl⟩, fun j hle hlt => ?_⟩
  obtain ⟨k, rfl⟩ := Nat.exists_eq_add_of_le hle
  have hk : k < bitPeriods Config.timing s.currentBit := by omega
  have hleft : bitPeriods Config.timing s.currentBit - k = 2 * s.timer - (s.timer + k) := by omega
  exact ⟨_, hsending.run_lowHalf hhalf hpos hk, rfl, rfl, hleft⟩

end Sys2Proof.Machine
end

section
/-! The Byte Framer (R110 to R116): what `SEND_BYTE` adds and sends, how long a frame lasts, and the edge between two
bits of a frame. -/

namespace Sys2Proof.Machine

/-! ### `SEND_BYTE` at the abstract level -/

theorem exec_sendByte (s : State) (b : Byte) (count : Bool) :
    exec (.sendByte b count) s = .next (s.sendByte b count) := rfl

/-- R110, R117: a counted byte is added modulo 256. -/
theorem accumulate_eq (csum : BitVec 8) (b : Byte) (count : Bool) :
    accumulate csum b count = if count then BitVec.ofNat 8 ((csum.toNat + b.toNat) % 256) else csum := by
  cases count with
  | false => rfl
  | true => exact BitVec.eq_of_toNat_eq (by simp [accumulate])

theorem wireBits_singleton (b : Byte) : wireBits [b] = frameBits b :=
  List.flatMap_singleton frameBits b

/-- `SEND_BYTE` emits its byte and updates `CSUM`; what else it writes belongs to the lower layers (R111). -/
theorem State.sendByte_sameButLowerLayers (s : State) (b : Byte) (count : Bool) :
    State.SameButLowerLayers ({ s with csum := accumulate s.csum b count }.emitted [b]) (s.sendByte b count) := by
  rw [State.SameButLowerLayers, State.sendByte_eq]
  rfl

theorem State.sendByte_bitTrace (s : State) (b : Byte) (count : Bool) :
    (s.sendByte b count).bitTrace = s.bitTrace ++ frameBits b := by
  rw [State.sendByte_eq, wireBits_singleton]

/-- Settles O10: the emitted bits are those of the frame, and the addition is the one modulo 256. -/
theorem sendByteAddsAndSendsFrame : Obligations.SendByteAddsAndSendsFrame := by
  intro s b count
  have hsent := s.sendByte_sameButLowerLayers b count
  rw [accumulate_eq] at hsent
  exact ⟨s.sendByte b count, exec_sendByte s b count, hsent⟩

/-! ### The frame of a byte -/

theorem frameBits_head? (b : Byte) : (frameBits b).head? = some false := rfl

theorem frameBits_getLast? (b : Byte) : (frameBits b).getLast? = some true := rfl

theorem decodeFrame_frameBits (b : Byte) : decodeFrame (frameBits b) = .ok (b, []) :=
  decodeFrame_frameBits_append b []

/-- R115: what decodes to its byte is different for different bytes. -/
theorem frameBits_injective : Function.Injective frameBits := by
  intro b b' h
  have hdec : decodeFrame (frameBits b) = decodeFrame (frameBits b') := congrArg decodeFrame h
  rw [decodeFrame_frameBits, decodeFrame_frameBits] at hdec
  cases hdec
  rfl

/-- Settles O11: the appended bits are the frame of the byte, and the frame decodes. -/
theorem sentFrameDecodesToItsByte : Obligations.SentFrameDecodesToItsByte :=
  ⟨fun s b count => ⟨s.sendByte b count, frameBits b, exec_sendByte s b count, s.sendByte_bitTrace b count,
    frameBits_length b, frameBits_head? b, frameBits_getLast? b, decodeFrame_frameBits b⟩,
    fun _ _ hne => frameBits_injective.ne hne⟩

/-! ### The duration of a frame -/

theorem segmentsTime_append (tShort tLong : Nat) (l r : List Segment) :
    segmentsTime tShort tLong (l ++ r) = segmentsTime tShort tLong l + segmentsTime tShort tLong r := by
  simp [segmentsTime]

/-- R108: the pulse pair of a bit lasts two segments. -/
theorem segmentsTime_pulse (tShort tLong : Nat) (v : Bool) :
    segmentsTime tShort tLong (pulse v) = bitTime tShort tLong v := by
  cases v <;> simp [segmentsTime, segmentTime, pulse, bitDur, bitTime, Nat.two_mul]

/-- Only the numbers of 0 and 1 bits decide how long the pulse pairs of some bits last (R108). -/
theorem segmentsTime_flatMap_pulse (tShort tLong : Nat) (bits : List Bool) :
    segmentsTime tShort tLong (bits.flatMap pulse) =
      2 * tLong * bits.count false + 2 * tShort * bits.count true := by
  induction bits with
  | nil => rfl
  | cons v bits ih =>
    rw [List.flatMap_cons, segmentsTime_append, segmentsTime_pulse, ih]
    cases v with
    | false =>
      rw [List.count_cons_self, List.count_cons_of_ne (by decide), bitTime, if_neg Bool.false_ne_true]
      ring
    | true =>
      rw [List.count_cons_self, List.count_cons_of_ne (by decide), bitTime, if_pos rfl]
      ring

/-- The 1 bits of a frame are those of its byte and the stop bit (R71). -/
theorem frameBits_count_true (b : Byte) : (frameBits b).count true = 1 + ones b := by
  have hdata : ((List.range 8).map b.getLsbD).count true = ones b := by
    rw [ones, ← List.countP_eq_length_filter, List.count, List.countP_map]
    exact List.countP_congr fun k _ => by simp
  rw [frameBits_eq, List.count_cons_of_ne (by decide), List.count_append, hdata]
  exact Nat.add_comm _ _

theorem ones_le (b : Byte) : ones b ≤ 8 :=
  List.length_filter_le b.getLsbD (List.range 8)

/-- The 0 bits of a frame are those of its byte and the start bit (R71). -/
theorem frameBits_count_false (b : Byte) : (frameBits b).count false = 1 + zeros b := by
  have htotal := List.count_true_add_count_false (frameBits b)
  have hones := ones_le b
  rw [frameBits_count_true, frameBits_length] at htotal
  rw [zeros]
  omega

/-- R116: the segments of a frame last as long as its bits say. -/
theorem segmentsTime_wireSegments_singleton (tShort tLong : Nat) (b : Byte) :
    segmentsTime tShort tLong (wireSegments [b]) = frameTime tShort tLong b := by
  rw [wireSegments, wireBits_singleton, segmentsTime_flatMap_pulse, frameBits_count_false, frameBits_count_true,
    frameTime]

/-- Settles O13: a pulse pair lasts as its bit says, and the frame has one 0 and one 1 more than its byte. -/
theorem frameLastsAsItsBitsSay : Obligations.FrameLastsAsItsBitsSay :=
  fun tShort tLong b => ⟨rfl, segmentsTime_wireSegments_singleton tShort tLong b⟩

/-! ### The edge between two bits of a frame -/

/-- While busy and without a reset, an edge is the transfer's own step (R164). -/
theorem tick_of_busy {p : Pins} {s : State} (c : Config.Timing) (hrst : p.rst = false) (hbusy : s.busy = true) :
    tick c p s = busyTick c p s := by
  rw [tick, hrst, if_neg Bool.false_ne_true, if_pos hbusy]

/-- R112: the ended bit is recorded and the next one begins. -/
theorem State.recordBit_nextFrameBit (c : Config.Timing) {s : State} (h : s.bitpos.toNat < 9) :
    s.recordBit.nextFrameBit c =
      { s with
        bitpos := BitVec.ofNat 4 (s.bitpos.toNat + 1), line := true, half := false
        timer := bitPeriods c (frameBit s.shreg (s.bitpos.toNat + 1))
        bitTrace := s.bitTrace ++ [s.currentBit], lTrace := s.lTrace ++ [⟨false, bitDur s.currentBit⟩] } := by
  have hto : (s.bitpos + 1).toNat = s.bitpos.toNat + 1 := by bv_omega
  have hpos : s.bitpos + 1 = BitVec.ofNat 4 (s.bitpos.toNat + 1) := by
    rw [← hto, BitVec.ofNat_toNat, BitVec.setWidth_eq]
  rw [← hpos, ← hto]
  rfl

/-- Settles O41: the edge ends a low half before the stop bit, so the busy machine goes on to the next bit of the
frame. -/
theorem nextFrameBitBeginsOnTheSameEdge : Obligations.NextFrameBitBeginsOnTheSameEdge := by
  intro s p rest hlive hbusy hbitpos hhalf htimer hinputs hrst v
  have hpopped : s.popped = s.withInputs rest := by rw [State.popped, hinputs, List.tail_cons]
  calc step s = tick Config.timing p s.popped := step_edge (.scheduled rest hinputs) hlive
    _ = busyTick Config.timing p s.popped := tick_of_busy Config.timing hrst hbusy
    _ = .next (s.popped.recordBit.nextFrameBit Config.timing) :=
      busyTick_nextFrameBit (s := s.popped) hbitpos htimer hhalf
    _ = _ := by
      rw [State.recordBit_nextFrameBit (s := s.popped) Config.timing hbitpos, bitPeriods_eq, hpopped]
      rfl

end Sys2Proof.Machine
end

section
/-! The operations of the Block Protocol Encoder (R120 to R135), each called by itself: the bytes it sends and what it
leaves alone. -/

namespace Sys2Proof.Machine

/-! ### The bytes formed from registers, as numbers -/

/-- R75: `ADDR[15:8]`. -/
theorem hiByte_eq (a : Addr) : hiByte a = BitVec.ofNat 8 (a.toNat / 256) := by
  simp [hiByte, BitVec.extractLsb', Nat.shiftRight_eq_div_pow]

/-- R75: `ADDR[7:0]`. -/
theorem loByte_eq (a : Addr) : loByte a = BitVec.ofNat 8 (a.toNat % 256) :=
  BitVec.eq_of_toNat_eq (by simp [loByte])

/-- R14, R77. -/
theorem neg8_eq (a : Byte) : neg8 a = BitVec.ofNat 8 ((256 - a.toNat) % 256) :=
  BitVec.eq_of_toNat_eq (by rw [neg8_toNat, BitVec.toNat_ofNat, Nat.mod_mod])

/-- R129: `ADDR` advances modulo 65536. -/
theorem add_setWidth_eq (a : Addr) (n : BitVec 5) :
    a + n.setWidth 16 = BitVec.ofNat 16 ((a.toNat + n.toNat) % 65536) :=
  BitVec.eq_of_toNat_eq (by simp)

/-- The sum of R14 on the natural numbers. -/
theorem sum8_toNat (l : List Byte) : (sum8 l).toNat = (l.map BitVec.toNat).sum % 256 := by
  induction l with
  | nil => rfl
  | cons b l ih => rw [sum8_cons, BitVec.toNat_add, ih, List.map_cons, List.sum_cons, Nat.add_mod_mod]

/-! ### Sending bytes in an operation -/

/-- Sending some bytes emits them and counts them if asked to; what else it writes belongs to the lower layers
(R111). -/
theorem State.sendBytes_sameButLowerLayers (s : State) {bytes : List Byte} (count : Bool) (hne : bytes ≠ []) :
    State.SameButLowerLayers
      ({ s with csum := if count then s.csum + sum8 bytes else s.csum }.emitted bytes) (s.sendBytes bytes count) := by
  obtain ⟨b, bytes, rfl⟩ := List.exists_cons_of_ne_nil hne
  rw [State.SameButLowerLayers, State.sendBytes_eq]
  rfl

/-- An operation that sends some bytes uncounted leaves `CSUM` alone (R117). -/
theorem sends_uncounted {i : Instr} {s : State} {bytes : List Byte} (hne : bytes ≠ [])
    (h : exec i s = .next (s.sendBytes bytes false)) : Sends i s s bytes :=
  ⟨_, h, s.sendBytes_sameButLowerLayers false hne⟩

/-- An operation that sends some bytes counted adds them all into `CSUM` (R110). -/
theorem sends_counted {i : Instr} {s : State} {bytes : List Byte} (hne : bytes ≠ [])
    (h : exec i s = .next (s.sendBytes bytes true)) : Sends i s { s with csum := s.csum + sum8 bytes } bytes :=
  ⟨_, h, s.sendBytes_sameButLowerLayers true hne⟩

/-- Settles O14: the three operations send constant bytes uncounted. -/
theorem constantBytesAreSentUncounted : Obligations.ConstantBytesAreSentUncounted := fun _ =>
  ⟨sends_uncounted (List.cons_ne_nil _ _) rfl, sends_uncounted (List.cons_ne_nil _ _) rfl,
    sends_uncounted (List.cons_ne_nil _ _) rfl⟩

/-! ### The block steps -/

/-- Settles O15: the arm of `BLK_CLR` writes `CSUM` only. -/
theorem blkClrZeroesChecksum : Obligations.BlkClrZeroesChecksum := fun _ => rfl

/-- Settles O16: one byte, counted. -/
theorem blkLenSendsLengthPlusTwo : Obligations.BlkLenSendsLengthPlusTwo := fun s =>
  ⟨s.sendLen, rfl, s.sendByte_sameButLowerLayers s.lenB true⟩

/-- Settles O17: two bytes, counted. -/
theorem blkAddrSendsHighThenLow : Obligations.BlkAddrSendsHighThenLow := by
  intro s hi lo
  have hsent : Sends .blkAddr s { s with csum := s.csum + sum8 [s.addrHi, s.addrLo] } [s.addrHi, s.addrLo] :=
    sends_counted (List.cons_ne_nil _ _) rfl
  have hhi : s.addrHi = hi := hiByte_eq s.addr
  have hlo : s.addrLo = lo := loByte_eq s.addr
  rw [hhi, hlo, sum8_cons, sum8_cons, sum8_nil, add_zero, ← add_assoc] at hsent
  exact hsent

/-- Settles O18: no data byte leaves the state alone; otherwise the slice is inside the payload and all of it is
counted. -/
theorem blkDataSendsTheSlice : Obligations.BlkDataSendsTheSlice := by
  refine fun s => ⟨fun hzero => ?_, fun hpos hwithin => ?_⟩
  · have hnone : s.blockData = [] := by simp [State.blockData, hzero]
    calc exec .blkData s = .next s.sendData := if_pos (.inl hzero)
      _ = .next s := by rw [State.sendData, hnone, State.sendBytes_nil]
  · have hne : s.blockData ≠ [] := by
      simp only [State.blockData, ne_eq, List.map_eq_nil_iff, List.range_eq_nil]
      omega
    exact sends_counted hne (if_pos (.inr hwithin))

/-- Settles O20: one byte, uncounted. -/
theorem blkCkSendsNegatedSum : Obligations.BlkCkSendsNegatedSum := by
  intro s
  rw [← neg8_eq]
  exact ⟨s.sendCheck, rfl, s.sendByte_sameButLowerLayers s.checkByte false⟩

/-- Settles O21: both sums of `BLK_ADV`. -/
theorem blkAdvAdvancesBothCursors : Obligations.BlkAdvAdvancesBothCursors := by
  intro s
  rw [← add_setWidth_eq]
  rfl

/-! ### `BLOCK` -/

theorem exec_block {s : State} (h : s.pcur.toNat < s.lenl.toNat) : exec .block s = .next s.sendBlock :=
  if_pos h

theorem State.sendBlock_blen (s : State) : s.sendBlock.blen = s.nextBlen := by
  rw [State.sendBlock_eq]

theorem State.nextData_length (s : State) : s.nextData.length = s.nextBlen.toNat := by
  simp [State.nextData]

/-- Settles O22: `BLEN` holds the length of the policy, whose range is `blockLength_range`. -/
theorem blockIsSizedByThePolicy : Obligations.BlockIsSizedByThePolicy := by
  intro s h
  obtain ⟨hpos, hle, -, halign⟩ := blockLength_range s.addr.toNat (Nat.sub_pos_of_lt h)
  rw [← State.nextBlen_toNat h, ← State.sendBlock_blen] at hpos hle halign
  have hlen : s.sendBlock.blen.toNat = blockLength (s.lenl.toNat - s.pcur.toNat) s.addr.toNat := by
    rw [State.sendBlock_blen, State.nextBlen_toNat h]
  exact ⟨s.sendBlock, exec_block h, hlen, hpos, hle, halign⟩

/-- The counted bytes of the block that starts here, as numbers (R72, R74, R75). -/
theorem State.countedBytes_nextData (s : State) :
    countedBytes s.addr s.nextData =
      [BitVec.ofNat 8 (s.nextBlen.toNat + 2), BitVec.ofNat 8 (s.addr.toNat / 256),
        BitVec.ofNat 8 (s.addr.toNat % 256)] ++
      (List.range s.nextBlen.toNat).map fun k => s.payloadAt (s.pcur.toNat + k) := by
  rw [countedBytes, s.nextData_length, hiByte_eq, loByte_eq]
  rfl

/-- Settles O23: the equation of `BLOCK`, with its bytes and its cursors as numbers. -/
theorem blockSendsOnePacketAndAdvances : Obligations.BlockSendsOnePacketAndAdvances := by
  intro s h
  refine ⟨s.sendBlock, exec_block h, ?_⟩
  intro n data counted sum
  have hn : s.nextBlen.toNat = n := State.nextBlen_toNat h
  have hcounted : countedBytes s.addr s.nextData = counted := by rw [s.countedBytes_nextData, hn]
  have haddr : s.addr + s.nextBlen.setWidth 16 = BitVec.ofNat 16 ((s.addr.toNat + n) % 65536) := by
    rw [add_setWidth_eq, hn]
  rw [State.SameButLowerLayers, State.sendBlock_eq, blockBytes, hcounted, haddr, hn, neg8_eq]
  rfl

/-- Settles O25: the checksum byte negates the sum of the counted bytes before it. -/
theorem emittedBlockSumsToZero : Obligations.EmittedBlockSumsToZero := by
  intro s h
  have hzero := sum8_append_neg8 (countedBytes s.addr s.nextData)
  refine ⟨s.sendBlock, countedBytes s.addr s.nextData ++ [neg8 (sum8 (countedBytes s.addr s.nextData))],
    exec_block h, ?_, ?_, ?_⟩
  · rw [s.sent_sendBlock.byteTrace, blockBytes, List.append_assoc, List.append_assoc]
    rfl
  · simp [countedBytes, s.nextData_length, s.sendBlock_blen]
  · rw [← sum8_toNat, hzero]
    rfl

end Sys2Proof.Machine
end

section
/-! The split into blocks (R131 to R133): its shape, and the payload its blocks carry (R138, R139, R143). -/

namespace Sys2Proof

/-! ### The shape of a split -/

/-- The alignment of the blocks from address `a` on (R132, R133). A split past the end of the payload is empty, so a
block that has another after it was not cut short by the end. -/
structure SplitAligned (len a p : Nat) (sls : List Slice) : Prop where
  nil_of_le : len ≤ p → sls = []
  inside : ∀ sl ∈ sls, 1 ≤ sl.len ∧ sl.addr % 16 + sl.len ≤ 16
  head : ∀ sl, sls[0]? = some sl → sl.addr = a
  starts : ∀ k sl, sls[k + 1]? = some sl → sl.addr % 16 = 0
  ends : ∀ k sl, sls[k]? = some sl → k + 1 < sls.length → (sl.addr + sl.len) % 16 = 0

/-- A block that leaves payload over ends at a multiple of 16 (R131). -/
theorem blockLength_aligned {remaining a : Nat} (h : blockLength remaining a < remaining) :
    (a + blockLength remaining a) % 16 = 0 := by
  simp only [blockLength, Config.alignUnit] at *
  omega

/-- R132, R133: every split is aligned. -/
theorem splitFuel_aligned {len fuel a p : Nat} (hfuel : len - p ≤ fuel) :
    SplitAligned len a p (splitFuel len fuel a p) := by
  refine splitFuel_induction (P := SplitAligned len) ?_ ?_ hfuel
  · exact fun a p hp => ⟨fun _ => rfl, nofun, nofun, nofun, nofun⟩
  · rintro a p n rest hp hn ih
    obtain ⟨hpos, -, -, halign⟩ := Machine.blockLength_range a (Nat.sub_pos_of_lt hp)
    have hmore (hne : rest ≠ []) : (a + n) % 16 = 0 := by
      have hlt : p + n < len := Nat.lt_of_not_le fun hle => hne (ih.nil_of_le hle)
      rw [hn] at hlt ⊢
      exact blockLength_aligned (by omega)
    refine ⟨fun hle => absurd hle (Nat.not_le.2 hp), ?_, ?_, ?_, ?_⟩
    · exact List.forall_mem_cons.2 ⟨⟨hn ▸ hpos, hn ▸ halign⟩, ih.inside⟩
    · rintro sl ⟨⟩
      rfl
    · intro k sl hk
      rw [List.getElem?_cons_succ] at hk
      cases k with
      | zero =>
        rw [ih.head sl hk]
        exact hmore fun hnil => by simp [hnil] at hk
      | succ k => exact ih.starts k sl hk
    · intro k sl hk hlast
      rw [List.length_cons] at hlast
      cases k with
      | zero =>
        cases hk
        exact hmore (List.ne_nil_of_length_pos (by omega))
      | succ k =>
        rw [List.getElem?_cons_succ] at hk
        exact ih.ends k sl hk (by omega)

/-- R132, R133: the split of a transfer is aligned. -/
theorem split_aligned (base len : Nat) : SplitAligned len base 0 (split base len) :=
  splitFuel_aligned (Nat.sub_le len 0)

/-- Settles O27: the alignment of the split; a block from one multiple of 16 to the next has 16 bytes. -/
theorem splitHasTheStatedShape : Obligations.SplitHasTheStatedShape := by
  intro base len k sl hk
  have haligned := split_aligned base len
  obtain ⟨hpos, hinside⟩ := haligned.inside sl (List.mem_of_getElem? hk)
  have hstart : 0 < k → sl.addr % 16 = 0 := by
    intro hk0
    obtain ⟨j, rfl⟩ := Nat.exists_eq_add_one.2 hk0
    exact haligned.starts j sl hk
  have hend := haligned.ends k sl hk
  refine ⟨hpos, hinside, ?_, hstart, hend, fun hk0 hlast => ?_⟩
  · rintro rfl
    exact haligned.head sl hk
  · have haddr := hstart hk0
    have hnext := hend hlast
    omega

/-! ### The payload in the blocks -/

/-- R143: the address of a block of a split is the first address plus the data bytes of the blocks before it, and the
block ends inside the transfer. -/
theorem splitFuel_addr {len fuel a p : Nat} (payload : Nat → Byte) (hfuel : len - p ≤ fuel) :
    ∀ k sl, (splitFuel len fuel a p)[k]? = some sl →
      sl.addr = a + (((splitFuel len fuel a p).take k).flatMap (Slice.data payload)).length ∧
        sl.addr + sl.len ≤ a + (len - p) := by
  refine splitFuel_induction
    (P := fun a p sls => ∀ k sl, sls[k]? = some sl →
      sl.addr = a + ((sls.take k).flatMap (Slice.data payload)).length ∧ sl.addr + sl.len ≤ a + (len - p))
    (fun _ _ _ => nofun) ?_ hfuel
  rintro a p n rest hp hn ih k sl hk
  obtain ⟨-, -, hle, -⟩ := Machine.blockLength_range a (Nat.sub_pos_of_lt hp)
  rw [← hn] at hle
  cases k with
  | zero =>
    cases hk
    exact ⟨rfl, Nat.add_le_add_left hle a⟩
  | succ k =>
    obtain ⟨haddr, hend⟩ := ih k sl hk
    rw [List.take_succ_cons, List.flatMap_cons, List.length_append, Slice.data_length]
    dsimp only
    omega

/-- Settles O29: the stream decodes to what its blocks carry; the data is the payload, and no address wraps below
65536. -/
theorem streamCarriesThePayload : Obligations.StreamCarriesThePayload := by
  intro base len payload hfit
  refine ⟨_, decodeStream_stream base len payload, flatMap_carried_data base len payload, fun k blk hk => ?_⟩
  rw [List.getElem?_map, Option.map_eq_some_iff] at hk
  obtain ⟨sl, hsl, rfl⟩ := hk
  obtain ⟨hpos, -⟩ := (split_aligned base len).inside sl (List.mem_of_getElem? hsl)
  obtain ⟨haddr, hend⟩ := splitFuel_addr payload (Nat.sub_le len 0) k sl hsl
  have hbefore : (((split base len).map (Slice.carried payload)).take k).flatMap Prod.snd =
      ((split base len).take k).flatMap (Slice.data payload) := by
    rw [← List.map_take]
    exact List.flatMap_map ..
  refine ⟨(Slice.data_length payload sl).symm ▸ hpos, ?_⟩
  rw [hbefore, Slice.carried, BitVec.toNat_ofNat, Nat.mod_eq_of_lt (by omega)]
  exact haddr

/-! ### What a stream depends on -/

/-- The blocks of a split read no payload byte past its end (R131). -/
theorem splitFuel_within {len fuel a p : Nat} (hfuel : len - p ≤ fuel) :
    ∀ sl ∈ splitFuel len fuel a p, sl.first + sl.len ≤ len := by
  refine splitFuel_induction (P := fun _ _ sls => ∀ sl ∈ sls, sl.first + sl.len ≤ len) (fun _ _ _ => nofun) ?_ hfuel
  rintro a p n rest hp rfl ih
  obtain ⟨-, -, hle, -⟩ := Machine.blockLength_range a (Nat.sub_pos_of_lt hp)
  exact List.forall_mem_cons.2 ⟨by dsimp only; omega, ih⟩

/-- R139: a stream depends on the payload below its length only. -/
theorem stream_congr {base len : Nat} {f g : Nat → Byte} (h : ∀ i, i < len → f i = g i) :
    stream base len f = stream base len g := by
  have hpacket : ∀ sl ∈ split base len, Slice.packet f sl = Slice.packet g sl := by
    intro sl hsl
    have hwithin := splitFuel_within (Nat.sub_le len 0) sl hsl
    have hdata : Slice.data f sl = Slice.data g sl :=
      List.map_congr_left fun k hk => h _ (by have := List.mem_range.1 hk; omega)
    rw [Slice.packet, Slice.packet, hdata]
  rw [stream, stream, List.flatMap_congr hpacket]

end Sys2Proof
end

section
/-! The whole transfer (R136, R137, R139): the state in which `TRANSMIT` ends. -/

namespace Sys2Proof.Machine

/-! ### The cursors after the loop over the blocks -/

/-- At the end of the payload no byte is left to advance over. -/
theorem State.cursors_at_end {s : State} {a : Nat} (ha : s.addr = BitVec.ofNat 16 a)
    (h : s.pcur.toNat = s.lenl.toNat) :
    s.pcur = s.lenl ∧ s.addr = BitVec.ofNat 16 (a + (s.lenl.toNat - s.pcur.toNat)) := by
  refine ⟨BitVec.eq_of_toNat_eq h, ?_⟩
  rw [h, Nat.sub_self, Nat.add_zero]
  exact ha

/-- R136, R145: with a block for each byte left, the loop ends with both cursors at the end of the payload. -/
theorem State.sendBlocks_end {s : State} {a fuel : Nat} (ha : s.addr = BitVec.ofNat 16 a)
    (hle : s.pcur.toNat ≤ s.lenl.toNat) (hfuel : s.lenl.toNat - s.pcur.toNat ≤ fuel) :
    (s.sendBlocks fuel).pcur = s.lenl ∧
      (s.sendBlocks fuel).addr = BitVec.ofNat 16 (a + (s.lenl.toNat - s.pcur.toNat)) := by
  induction fuel generalizing s a with
  | zero => exact State.cursors_at_end (s := s) ha (by omega)
  | succ fuel ih =>
    rw [State.sendBlocks]
    split
    case isTrue hlt =>
      obtain ⟨hpos, -, hn, -⟩ := blockLength_range s.addr.toNat (Nat.sub_pos_of_lt hlt)
      have hpcur := State.sendBlock_pcur_toNat hlt
      have hlenl := s.sendBlock_lenl
      have hnext := State.sendBlock_addr ha
      rw [State.nextBlen_toNat hlt] at hnext
      obtain ⟨hendp, henda⟩ := ih hnext (by rw [hlenl]; omega) (by rw [hlenl]; omega)
      rw [hlenl] at hendp henda
      refine ⟨hendp, henda.trans (congrArg (BitVec.ofNat 16) ?_)⟩
      omega
    case isFalse hend => exact State.cursors_at_end ha (by omega)

/-- Sending bytes from one state to another gives the second one but for its phase, its sums, its cursors and the lower
layers (R12, R136). -/
theorem State.Sent.sameButLowerLayers {s t : State} {bytes : List Byte} (h : s.Sent t bytes) (hline : t.line = false) :
    State.SameButLowerLayers
      ({ s with
        phase := t.phase, csum := t.csum, addr := t.addr, pcur := t.pcur, blen := t.blen }.emitted bytes) t := by
  obtain ⟨hunsent, hbytes, hbits, hsegs⟩ := h
  simp only [State.unsent, Prod.mk.injEq] at hunsent
  obtain ⟨⟨herr, hlenl, hbidx⟩, hpayload, hinputs, hlive, hlosses⟩ := hunsent
  rw [State.SameButLowerLayers, State.emitted, ← hbytes, ← hbits, ← hsegs, ← hline, ← herr, ← hlenl, ← hbidx,
    ← hpayload, ← hinputs, ← hlive, ← hlosses]

/-! ### `TRANSMIT` -/

/-- The trailer leaves the line low (R102). -/
theorem State.transmit_line (s : State) (base : Addr) (len : Len) : (s.transmit base len).line = false := by
  simp only [State.transmit, State.enter_line, State.sendTrailer, trailerBytes, State.sendBytes_eq]

/-- R136: both cursors end at the end of the transfer. -/
theorem State.transmit_cursors (s : State) (base : Addr) (len : Len) :
    (s.transmit base len).pcur = len ∧
      (s.transmit base len).addr = BitVec.ofNat 16 ((base.toNat + len.toNat) % 65536) := by
  have hstart : (s.latch base len).sendPreamble.cursors = (base, 0, len) := State.sendBytes_cursors ..
  have htrailer : (s.transmit base len).cursors = ((s.latch base len).sendPreamble.sendBlocks len.toNat).cursors :=
    State.sendBytes_cursors ..
  obtain ⟨haddr, hpcur, hlenl⟩ : (s.latch base len).sendPreamble.addr = base ∧
      (s.latch base len).sendPreamble.pcur = 0 ∧ (s.latch base len).sendPreamble.lenl = len := by
    simpa [State.cursors] using hstart
  obtain ⟨hpcur', haddr'⟩ := State.sendBlocks_end (s := (s.latch base len).sendPreamble) (a := base.toNat)
    (fuel := len.toNat) (by simp [haddr]) (by simp [hpcur]) (by simp [hpcur, hlenl])
  simp only [State.cursors, Prod.mk.injEq] at htrailer
  obtain ⟨hta, htp, -⟩ := htrailer
  refine ⟨htp.trans (hpcur'.trans hlenl), hta.trans (haddr'.trans (BitVec.eq_of_toNat_eq ?_))⟩
  simp [hpcur, hlenl]

/-- R136: `TRANSMIT` sends its stream and ends in `Done`, with the cursors at the end; the sums it leaves are stale
(R39). -/
theorem State.transmit_sameButLowerLayers (s : State) {base : Addr} {len : Len}
    (hfit : base.toNat + len.toNat ≤ 65536) :
    State.SameButLowerLayers
      ({ s with
        phase := .done, bidx := 0, addr := BitVec.ofNat 16 ((base.toNat + len.toNat) % 65536), pcur := len, lenl := len
        csum := (s.transmit base len).csum, blen := (s.transmit base len).blen }.emitted
          (stream base.toNat len.toNat s.payloadAt)) (s.transmit base len) := by
  obtain ⟨hpcur, haddr⟩ := s.transmit_cursors base len
  have hsame := (s.sent_transmit hfit).sameButLowerLayers (s.transmit_line base len)
  rw [hpcur, haddr] at hsame
  exact hsame

/-- Settles O30: where `TRANSMIT` ends. -/
theorem transmitSendsTheStream : Obligations.TransmitSendsTheStream := fun s _ _ hfit =>
  ⟨_, exec_transmit s hfit, s.transmit_sameButLowerLayers hfit⟩

/-- An empty transfer sends no block, so it neither sums nor sizes one (R137). -/
theorem State.transmit_zero (s : State) (base : Addr) :
    s.transmit base 0 = ((((s.latch base 0).sendPreamble).enter .trailer).sendTrailer).enter .done := rfl

/-- Settles O31: the stream of an empty transfer is its preamble and its trailer, both sent uncounted. -/
theorem emptyTransferSendsPreambleAndTrailer : Obligations.EmptyTransferSendsPreambleAndTrailer := by
  intro s base
  have hfit : base.toNat + (0 : Len).toNat ≤ 65536 := Nat.le_of_lt base.isLt
  obtain ⟨hcsum, hblen⟩ : (s.transmit base 0).csum = s.csum ∧ (s.transmit base 0).blen = s.blen := by
    rw [s.transmit_zero, State.sendTrailer, State.sendPreamble, trailerBytes, preambleBytes, State.sendBytes_eq,
      State.sendBytes_eq]
    exact ⟨rfl, rfl⟩
  have haddr : BitVec.ofNat 16 ((base.toNat + (0 : Len).toNat) % 65536) = base :=
    BitVec.eq_of_toNat_eq (by simpa using base.isLt)
  have hsame := s.transmit_sameButLowerLayers hfit
  rw [hcsum, hblen, haddr] at hsame
  exact ⟨_, exec_transmit s hfit, hsame⟩

/-- Settles O33: both transfers send the stream, which depends on the payload below `LEN` only. -/
theorem transferDependsOnItsInputsAlone : Obligations.TransferDependsOnItsInputsAlone := by
  intro s s' base len hfit hpayload
  have hsent := s.sent_transmit hfit
  have hsent' := s'.sent_transmit hfit
  rw [← stream_congr hpayload] at hsent'
  exact ⟨_, _, _, _, _, exec_transmit s hfit, exec_transmit s' hfit, hsent.byteTrace, hsent'.byteTrace, hsent.bitTrace,
    hsent'.bitTrace, hsent.lTrace, hsent'.lTrace⟩

end Sys2Proof.Machine
end

section
/-! The transition table (R141), row by row, and the phase changes of a clock edge (R142). -/

namespace Sys2Proof.Machine

/-! ### What `Next` answers in each row -/

section
variable {p : Pins} {s : State}

/-- With payload left, another block begins. -/
theorem nextBlockOrTrailer_of_lt {cursor : Nat} (h : cursor < s.lenl.toNat) :
    nextBlockOrTrailer s cursor = .next (s.enterFirst .blockStart, some (Config.markS, false)) :=
  if_pos h

/-- With none left, the trailer begins. -/
theorem nextBlockOrTrailer_of_eq {cursor : Nat} (h : cursor = s.lenl.toNat) :
    nextBlockOrTrailer s cursor = .next (s.enterFirst .trailer, some (Config.markS, false)) :=
  (if_neg (by omega)).trans (if_pos h)

theorem nextByte_preamble_first (hp : s.phase = .preamble) (h0 : s.bidx = 0) :
    nextByte p s = .next (s.nextIndex, some (Config.preambleByte, false)) := by
  simp only [nextByte, hp, h0, if_true, loadNext]

theorem nextByte_preamble_second (hp : s.phase = .preamble) (h1 : s.bidx = 1) :
    nextByte p s = nextBlockOrTrailer s s.pcur.toNat := by
  have hne : ¬(1 : BitVec 5) = 0 := by decide
  simp only [nextByte, hp, h1, if_neg hne, if_true]

theorem nextByte_blockStart_first (hp : s.phase = .blockStart) (h0 : s.bidx = 0) :
    nextByte p s = .next (s.nextIndex, some (Config.markBlock, false)) := by
  simp only [nextByte, hp, h0, if_true, loadNext]

theorem nextByte_blockStart_second (hp : s.phase = .blockStart) (h1 : s.bidx = 1) :
    nextByte p s = .next (s.sizeBlock.clearSum.enterFirst .blockBody, some (lenByte s.nextBlen.toNat, true)) := by
  have hne : ¬(1 : BitVec 5) = 0 := by decide
  simp only [nextByte, hp, h1, if_neg hne, if_true]
  rfl

theorem nextByte_blockBody (hp : s.phase = .blockBody) : nextByte p s = nextInBody p s := by
  simp only [nextByte, hp]

theorem nextByte_blockBody_addrHi (hp : s.phase = .blockBody) (h0 : s.bidx = 0) :
    nextByte p s = .next (s.nextIndex, some (s.addrHi, true)) :=
  (nextByte_blockBody hp).trans (if_pos h0)

theorem nextByte_blockBody_addrLo (hp : s.phase = .blockBody) (h1 : s.bidx = 1) :
    nextByte p s = .next (s.nextIndex, some (s.addrLo, true)) := by
  have hne : ¬s.bidx = 0 := by simp [h1]
  rw [nextByte_blockBody hp, nextInBody, if_neg hne, if_pos h1, loadNext]

/-- From index 2 on a block body has only data and the checksum before it. -/
theorem nextInBody_of_two_le (h2 : 2 ≤ s.bidx.toNat) :
    nextInBody p s =
      if s.bidx.toNat ≤ s.blen.toNat + 1 then nextData p s
      else if s.bidx.toNat = s.blen.toNat + 2 then
        .next (s.enterFirst .blockChecksum, some (s.checkByte, false))
      else .refused .unreachablePosition := by
  have hne0 : ¬s.bidx = 0 := fun h => by simp [h] at h2
  have hne1 : ¬s.bidx = 1 := fun h => by simp [h] at h2
  rw [nextInBody, if_neg hne0, if_neg hne1, loadNext]

theorem nextByte_blockBody_data (hp : s.phase = .blockBody) (h2 : 2 ≤ s.bidx.toNat)
    (hle : s.bidx.toNat ≤ s.blen.toNat + 1) (hin : s.dataIndex (s.bidx.toNat - 2) < s.lenl.toNat) :
    nextByte p s = .next (s.nextIndex, some (s.sampleData p, true)) := by
  rw [nextByte_blockBody hp, nextInBody_of_two_le h2, if_pos hle, nextData, if_pos hin, loadNext]

theorem nextByte_blockBody_last (hp : s.phase = .blockBody) (hi : s.bidx.toNat = s.blen.toNat + 2) :
    nextByte p s = .next (s.enterFirst .blockChecksum, some (s.checkByte, false)) := by
  rw [nextByte_blockBody hp, nextInBody_of_two_le (by omega), if_neg (by omega), if_pos hi]

theorem nextByte_blockChecksum (hp : s.phase = .blockChecksum) (h0 : s.bidx = 0) :
    nextByte p s = nextBlockOrTrailer s.advance s.pcurAfter := by
  simp only [nextByte, hp, h0, if_true]

theorem nextByte_trailer_first (hp : s.phase = .trailer) (h0 : s.bidx = 0) :
    nextByte p s = .next (s.nextIndex, some (Config.markEnd, false)) := by
  simp only [nextByte, hp, h0, if_true, loadNext]

theorem nextByte_trailer_second (hp : s.phase = .trailer) (h1 : s.bidx = 1) :
    nextByte p s = .next (s.enterFirst .done, none) := by
  have hne : ¬(1 : BitVec 5) = 0 := by decide
  simp only [nextByte, hp, h1, if_neg hne, if_true]

end

/-! ### The edge that ends a byte -/

theorem byteOver_of_some {c : Config.Timing} {p : Pins} {s u : State} {b : Byte} {count : Bool}
    (h : nextByte p s = .next (u, some (b, count))) : byteOver c p s = .next (u.load c b count) := by
  simp only [byteOver, h]

theorem byteOver_of_none {c : Config.Timing} {p : Pins} {s u : State} (h : nextByte p s = .next (u, none)) :
    byteOver c p s = .next u := by
  simp only [byteOver, h]

/-- At the end of a byte an edge without reset records it and applies `Next` (R146). -/
theorem State.AtByteEnd.step_eq {s : State} {p : Pins} {rest : List Stimulus} (h : s.AtByteEnd)
    (hinputs : s.inputs = .edge p :: rest) (hrst : p.rst = false) (hbusy : s.busy = true) :
    step s = byteOver Config.timing p (s.withInputs rest).recorded := by
  have hpopped : s.popped = s.withInputs rest := by rw [State.popped, hinputs, List.tail_cons]
  calc step s = tick Config.timing p (s.withInputs rest) := hpopped ▸ step_edge (.scheduled rest hinputs) h.live
    _ = busyTick Config.timing p (s.withInputs rest) := tick_of_busy Config.timing hrst hbusy
    _ = _ := busyTick_byteOver (s := s.withInputs rest) h.bitpos h.timer h.half

theorem State.busy_of_phase {s : State} {q : Phase} (h : s.phase = q) (hq : q.busy = true) : s.busy = true := by
  rw [State.busy, h, hq]

/-- A frame begins with its start bit, which is a 0 and so long (R71, R146). -/
theorem State.load_eq (s : State) (c : Config.Timing) (b : Byte) (count : Bool) :
    s.load c b count =
      { s with
        shreg := b, csum := accumulate s.csum b count, bitpos := 0, line := true, half := false, timer := c.nLong } :=
  rfl

/-- `BLEN` and `LENB` of the block that starts here (R74, R131), also past the end of the payload (log 22). -/
theorem State.lenByte_nextBlen (s : State) :
    lenByte s.nextBlen.toNat =
      BitVec.ofNat 8 (min (s.lenl.toNat - s.pcur.toNat) (16 - s.addr.toNat % 16) + 2) := by
  have hn : s.nextBlen.toNat = min (s.lenl.toNat - s.pcur.toNat) (16 - s.addr.toNat % 16) := by
    rw [State.nextBlen, BitVec.toNat_ofNat]
    exact Nat.mod_eq_of_lt (by simp only [blockLength, Config.alignUnit]; omega)
  rw [lenByte, hn]
  rfl

/-- The source answers in time with the data byte at the index of the position (R155). -/
theorem State.sampleData_eq {s : State} {p : Pins} (hp : s.phase = .blockBody) (h2 : 2 ≤ s.bidx.toNat)
    (hle : s.bidx.toNat ≤ s.blen.toNat + 1) (hdata : p.pData = none) :
    s.sampleData p = s.dataByte (s.bidx.toNat - 2) := by
  have hwants : s.wantsData = true := by simp [State.wantsData, hp, h2, hle]
  rw [State.sampleData, hdata, State.pAddr, if_pos hwants]
  rfl

/-- Settles O42: on the edge that ends a byte `Next` answers by the row, on the recorded state, and its byte is
loaded. -/
theorem nextFollowsTheTable : Obligations.NextFollowsTheTable := by
  intro s p rest hend hinputs hrst u load n lenb hi lo addr' pcur'
  have hload {q : Phase} {v : State} {b : Byte} {count : Bool} (hp : s.phase = q) (hq : q.busy = true)
      (hnext : nextByte p u = .next (v, some (b, count))) : step s = .next (v.load Config.timing b count) :=
    (hend.step_eq hinputs hrst (State.busy_of_phase hp hq)).trans (byteOver_of_some hnext)
  have hindex {i : BitVec 5} (hi : s.bidx = i) : u.nextIndex = { u with bidx := i + 1 } := by
    rw [← hi]
    rfl
  have hlenb : lenByte u.nextBlen.toNat = lenb := s.lenByte_nextBlen
  have hsum : accumulate 0 lenb true = lenb := BitVec.zero_add lenb
  have hhi : u.addrHi = hi := hiByte_eq s.addr
  have hlo : u.addrLo = lo := loByte_eq s.addr
  have hcheck : u.checkByte = BitVec.ofNat 8 ((256 - s.csum.toNat) % 256) := neg8_eq s.csum
  have hadv : u.advance = { u with addr := addr', pcur := pcur' } := by
    rw [State.advance, State.addrAfter, add_setWidth_eq]
    rfl
  refine ⟨fun hp h0 => ?_, fun hp h1 hlt => ?_, fun hp h1 heq => ?_, fun hp h0 => ?_, fun hp h1 => ?_, fun hp h0 => ?_,
    fun hp h1 => ?_, fun hp h2 hle hwithin hdata => ?_, fun hp hi => ?_, fun hp h0 hlt => ?_, fun hp h0 heq => ?_,
    fun hp h0 => ?_, fun hp h1 => ?_⟩
  · rw [hload hp rfl (nextByte_preamble_first (s := u) hp h0), hindex h0]
    rfl
  · have hnext := (nextByte_preamble_second (p := p) (s := u) hp h1).trans (nextBlockOrTrailer_of_lt hlt)
    exact hload hp rfl hnext
  · have hnext := (nextByte_preamble_second (p := p) (s := u) hp h1).trans
      (nextBlockOrTrailer_of_eq (congrArg BitVec.toNat heq))
    exact hload hp rfl hnext
  · rw [hload hp rfl (nextByte_blockStart_first (s := u) hp h0), hindex h0]
    rfl
  · rw [hload hp rfl (nextByte_blockStart_second (s := u) hp h1), hlenb, State.load_eq, State.enterFirst_csum,
      State.clearSum_csum, hsum]
    rfl
  · rw [hload hp rfl (nextByte_blockBody_addrHi (s := u) hp h0), hindex h0, hhi]
    rfl
  · rw [hload hp rfl (nextByte_blockBody_addrLo (s := u) hp h1), hindex h1, hlo]
    rfl
  · have hin : u.dataIndex (u.bidx.toNat - 2) < u.lenl.toNat := by
      change s.pcur.toNat + (s.bidx.toNat - 2) < s.lenl.toNat
      omega
    rw [hload hp rfl (nextByte_blockBody_data (s := u) hp h2 hle hin), State.sampleData_eq (s := u) hp h2 hle hdata,
      Nat.add_sub_assoc h2]
    rfl
  · rw [hload hp rfl (nextByte_blockBody_last (s := u) hp hi), hcheck]
    rfl
  · have hnext := (nextByte_blockChecksum (p := p) (s := u) hp h0).trans (nextBlockOrTrailer_of_lt (s := u.advance) hlt)
    rw [hload hp rfl hnext, hadv]
    rfl
  · have hnext := (nextByte_blockChecksum (p := p) (s := u) hp h0).trans (nextBlockOrTrailer_of_eq (s := u.advance) heq)
    rw [hload hp rfl hnext, hadv]
    rfl
  · rw [hload hp rfl (nextByte_trailer_first (s := u) hp h0), hindex h0]
    rfl
  · exact (hend.step_eq hinputs hrst (State.busy_of_phase hp rfl)).trans
      (byteOver_of_none (nextByte_trailer_second (s := u) hp h1))

/-! ### The phase on a clock edge -/

theorem phaseStep_self (q : Phase) : phaseStep q q = true := by
  cases q <;> rfl

/-- Out of `Idle` and `Done` a START leads to `Preamble` or to `Idle` (R150, R162). -/
theorem phaseStep_of_not_busy {q : Phase} (h : q.busy = false) :
    phaseStep q .preamble = true ∧ phaseStep q .idle = true := by
  cases q with
  | idle | done => exact ⟨rfl, rfl⟩
  | preamble | blockStart | blockBody | blockChecksum | trailer => cases h

/-- Every row of R141 keeps the phase or moves it along the state machine. -/
theorem nextByte_phaseStep {p : Pins} {s u : State} {o : Option (Byte × Bool)} (h : nextByte p s = .next (u, o)) :
    phaseStep s.phase u.phase = true := by
  rcases nextByte_cases h with ⟨hp, _, e⟩ | ⟨hp, _, _, e⟩ | ⟨hp, _, _, e⟩ | ⟨hp, _, e⟩ | ⟨hp, _, e⟩ | ⟨hp, _, e⟩ |
      ⟨hp, _, e⟩ | ⟨hp, _, _, _, e⟩ | ⟨hp, _, e⟩ | ⟨hp, _, _, e⟩ | ⟨hp, _, _, e⟩ | ⟨hp, _, e⟩ | ⟨hp, _, e⟩ <;>
    cases e <;> simp [hp, phaseStep]

/-- While busy only the end of a byte moves the phase (R146). -/
theorem busyTick_phaseStep {c : Config.Timing} {p : Pins} {s t : State} (h : busyTick c p s = .next t) :
    phaseStep s.phase t.phase = true := by
  obtain ⟨_, ⟨_, rfl⟩ | ⟨_, _, rfl⟩ | ⟨_, _, _, rfl⟩ | ⟨_, _, _, hover⟩⟩ := busyTick_cases h
  · exact phaseStep_self s.phase
  · exact phaseStep_self s.phase
  · exact phaseStep_self s.phase
  · obtain ⟨u, b, count, hnext, rfl⟩ | hnext := byteOver_cases hover
    · have hmove := nextByte_phaseStep (s := s.recordBit.recordByte) hnext
      exact hmove
    · have hmove := nextByte_phaseStep (s := s.recordBit.recordByte) hnext
      exact hmove

/-- Settles O43: by what the edge does. A reset gives `Idle`, a busy edge is `busyTick_phaseStep`, and the outcome of a
START is decided by the test of R162. -/
theorem phaseMovesOnlyAlongTheStateMachine : Obligations.PhaseMovesOnlyAlongTheStateMachine := by
  intro s t p rest hlive hinputs hstep
  rw [step_edge (.scheduled rest hinputs) hlive] at hstep
  rcases tick_cases hstep with ⟨hrst, rfl⟩ | ⟨hrst, hbusy, hbt⟩ | ⟨hrst, hidle, hstart, hfit, rfl⟩ |
      ⟨hrst, hidle, hstart, hfit, rfl⟩ | ⟨hrst, _, _, rfl⟩
  · exact ⟨fun _ => rfl, fun h => absurd hrst (Bool.eq_false_iff.1 h)⟩
  · have hmove : phaseStep s.phase t.phase = true := busyTick_phaseStep (s := s.popped) hbt
    exact ⟨fun h => absurd h (Bool.eq_false_iff.1 hrst),
      fun _ => ⟨hmove, fun hidle => absurd hbusy (Bool.eq_false_iff.1 hidle)⟩⟩
  · exact ⟨fun h => absurd h (Bool.eq_false_iff.1 hrst), fun _ => ⟨(phaseStep_of_not_busy hidle).1,
      fun _ _ => ⟨hstart, fun _ => (fitsTarget_iff _ _).1 hfit, fun _ => rfl⟩⟩⟩
  · have hlong := (fitsTarget_eq_false _ _).1 hfit
    exact ⟨fun h => absurd h (Bool.eq_false_iff.1 hrst), fun _ => ⟨(phaseStep_of_not_busy hidle).2,
      fun _ _ => ⟨hstart, nofun, fun hle => absurd hle (Nat.not_le.2 hlong)⟩⟩⟩
  · exact ⟨fun h => absurd h (Bool.eq_false_iff.1 hrst),
      fun _ => ⟨phaseStep_self s.phase, fun _ hne => absurd rfl hne⟩⟩

end Sys2Proof.Machine
end

section
/-! The clocked machine against the whole operation (R11, R147): from the START edge to `Done` it shows the segments of
the stream, and it ends in the state that `TRANSMIT` gives.

The comparison goes through the ends of the bytes. There the clocked machine, once it has recorded the byte, is in the
state that `SEND_BYTE` gives (`State.plays_load`), so the rows of R141 can be read as the steps of R130 and R136
(`State.Completes`). -/

namespace Sys2Proof.Machine

/-! ### The line, edge by edge -/

/-- From `s`, edges of a busy machine whose payload source answers in time lead to `t`; the list has the level of the
line in each clock period on the way. -/
inductive State.Plays (c : Config.Timing) : State → List Bool → State → Prop where
  | refl (s : State) : State.Plays c s [] s
  | edge {s u t : State} {ls : List Bool} (hbusy : s.busy = true) (htick : busyTick c .quiet s = .next u)
      (h : State.Plays c u ls t) : State.Plays c s (s.line :: ls) t

theorem State.Plays.trans {c : Config.Timing} {s t u : State} {ls ms : List Bool} (h : s.Plays c ls t)
    (h' : t.Plays c ms u) : s.Plays c (ls ++ ms) u := by
  induction h with
  | refl s => exact h'
  | edge hbusy htick _ ih => exact .edge hbusy htick (ih h')

/-- All periods of a segment but the last count `TIMER` down (R107). -/
theorem State.plays_countdown {c : Config.Timing} {s t : State} {ls : List Bool} (hbusy : s.busy = true)
    (h9 : s.bitpos.toNat ≤ 9) {n : Nat} (hn : s.timer = n + 1) (h : { s with timer := 1 }.Plays c ls t) :
    s.Plays c (List.replicate n s.line ++ ls) t := by
  induction n generalizing s with
  | zero =>
    rw [← Nat.zero_add 1, ← hn] at h
    exact h
  | succ n ih =>
    have hnext := ih (s := { s with timer := n + 1 }) hbusy h9 rfl h
    have htick : busyTick c .quiet s = .next { s with timer := n + 1 } := by
      rw [busyTick_countdown h9 (by omega), hn]
      rfl
    exact .edge hbusy htick hnext

/-- A segment is played when its last edge is known: it holds the line for its periods (R107). -/
theorem State.plays_segment {c : Config.Timing} {s u t : State} {ls : List Bool} {g : Segment} (hbusy : s.busy = true)
    (h9 : s.bitpos.toNat ≤ 9) (hline : s.line = g.high) (htimer : s.timer = c.periods g.dur)
    (hlast : busyTick c .quiet { s with timer := 1 } = .next u) (h : u.Plays c ls t) :
    s.Plays c (levels c [g] ++ ls) t := by
  have hpos : 0 < c.periods g.dur := by
    have hshort := c.short_pos
    have hlong := c.short_lt_long
    cases g.dur with
    | short => exact hshort
    | long => exact Nat.lt_trans hshort hlong
  obtain ⟨n, hn⟩ := Nat.exists_eq_add_one.2 hpos
  have hlevels : levels c [g] = List.replicate n s.line ++ [s.line] := by
    rw [levels, List.flatMap_singleton, hn, hline, List.replicate_succ']
  rw [hlevels, List.append_assoc]
  exact State.plays_countdown hbusy h9 (htimer.trans hn) (.edge hbusy hlast h)

theorem levels_append (c : Config.Timing) (l r : List Segment) : levels c (l ++ r) = levels c l ++ levels c r :=
  List.flatMap_append

/-! ### A bit, a frame -/

/-- A bit is played, high then low, when the edge that ends it is known; on that edge the bit has been sent (R100, R101,
R107). -/
theorem State.plays_bit {c : Config.Timing} {s u t : State} {ls : List Bool} (hbusy : s.busy = true)
    (h9 : s.bitpos.toNat ≤ 9)
    (hlast : ∀ e : State, e.bitpos = s.bitpos → e.half = true → e.timer = 1 →
      e.recordBit = s.sendBit s.currentBit → busyTick c .quiet e = .next u)
    (h : u.Plays c ls t) : (s.beginBit c s.currentBit).Plays c (levels c (pulse s.currentBit) ++ ls) t := by
  have hsplit : pulse s.currentBit = [⟨true, bitDur s.currentBit⟩] ++ [⟨false, bitDur s.currentBit⟩] := rfl
  have hfall : busyTick c .quiet { s.beginBit c s.currentBit with timer := 1 } =
      .next ({ s.beginBit c s.currentBit with timer := 1 }.endHighHalf c) :=
    busyTick_endHighHalf h9 (Nat.le_refl 1) rfl
  rw [hsplit, levels_append, List.append_assoc]
  refine State.plays_segment hbusy h9 rfl rfl hfall ?_
  exact State.plays_segment hbusy h9 rfl rfl (hlast _ rfl rfl rfl rfl) h

/-- The bits of the frame from the one in progress on (R112). -/
def State.bitsLeft (s : State) : List Bool :=
  (List.range' s.bitpos.toNat (10 - s.bitpos.toNat)).map (frameBit s.shreg)

/-- The bit in progress is the first of those left. -/
theorem State.bitsLeft_cons {s : State} (h : s.bitpos.toNat < 9) :
    s.bitsLeft = s.currentBit :: State.bitsLeft { s with bitpos := s.bitpos + 1 } := by
  have hto : (s.bitpos + 1).toNat = s.bitpos.toNat + 1 := by bv_omega
  have hleft : 10 - s.bitpos.toNat = (10 - (s.bitpos.toNat + 1)) + 1 := by omega
  rw [State.bitsLeft, State.bitsLeft, hto, hleft, List.range'_succ, List.map_cons]
  rfl

/-- The stop bit is the last of them. -/
theorem State.bitsLeft_last {s : State} (h : s.bitpos = 9) : s.bitsLeft = [s.currentBit] := by
  rw [State.bitsLeft, State.currentBit, h]
  rfl

/-- The rest of a frame is played, and then the byte is over, with the bits sent (R112, R146). -/
theorem State.plays_bitsLeft {c : Config.Timing} {s x t : State} {ls : List Bool} (hbusy : s.busy = true)
    (h9 : s.bitpos.toNat ≤ 9)
    (hover : byteOver c .quiet ({ s with bitpos := 9 }.sendBits s.bitsLeft).recordByte = .next x)
    (h : x.Plays c ls t) :
    (s.beginBit c s.currentBit).Plays c (levels c (s.bitsLeft.flatMap pulse) ++ ls) t := by
  obtain ⟨n, hn⟩ := Nat.exists_eq_add_of_le h9
  induction n generalizing s with
  | zero =>
    have hpos : s.bitpos = 9 := BitVec.eq_of_toNat_eq hn.symm
    rw [State.bitsLeft_last hpos] at hover ⊢
    rw [List.flatMap_singleton]
    refine State.plays_bit hbusy h9 (fun e he9 hhalf htimer hsent => ?_) h
    rw [busyTick_byteOver (he9.trans hpos) (Nat.le_of_eq htimer) hhalf, hsent]
    rw [← hpos] at hover
    exact hover
  | succ n ih =>
    have hlt : s.bitpos.toNat < 9 := by omega
    have hto : (s.bitpos + 1).toNat = s.bitpos.toNat + 1 := by bv_omega
    rw [State.bitsLeft_cons hlt] at hover ⊢
    rw [List.flatMap_cons, levels_append, List.append_assoc]
    have hrest := ih (s := { s.sendBit s.currentBit with bitpos := s.bitpos + 1 }) hbusy
      (by rw [hto]; omega) hover (by rw [hto]; omega)
    refine State.plays_bit hbusy h9 (fun e he9 hhalf htimer hsent => ?_) hrest
    rw [busyTick_nextFrameBit (he9 ▸ hlt) (Nat.le_of_eq htimer) hhalf, hsent]
    rfl

/-- A loaded byte is played as its frame, and then it is over, in the state that `SEND_BYTE` gives (R111, R146). -/
theorem State.plays_load {c : Config.Timing} {s x t : State} {b : Byte} {count : Bool} {ls : List Bool}
    (hbusy : s.busy = true) (hover : byteOver c .quiet (s.sendByte b count) = .next x) (h : x.Plays c ls t) :
    (s.load c b count).Plays c (levels c (wireSegments [b]) ++ ls) t := by
  have hframe : frameBits b = frameBit b 0 :: (frameBits b).tail := rfl
  have hsent : s.sendByte b count =
      ({ s with shreg := b, csum := accumulate s.csum b count, bitpos := 9 }.sendBits (frameBits b)).recordByte := by
    rw [State.sendByte_eq, hframe, State.sendBits_eq, ← hframe, wireBits_singleton, wireSegments, wireBits_singleton]
    rfl
  rw [hsent] at hover
  rw [wireSegments, wireBits_singleton]
  exact State.plays_bitsLeft (s := { s with shreg := b, csum := accumulate s.csum b count, bitpos := 0 }) hbusy
    (Nat.zero_le 9) hover h

/-! ### The ends of the bytes -/

/-- From `s`, at the end of a byte, `Next` loads byte after byte until it ends the transfer in `t` (R141). Between two
applications of `Next` the byte is sent as `SEND_BYTE` sends it. -/
inductive State.Completes : State → State → Prop where
  | finish {s t : State} (hnext : nextByte .quiet s = .next (t, none)) : State.Completes s t
  | load {s u t : State} {b : Byte} {count : Bool} (hnext : nextByte .quiet s = .next (u, some (b, count)))
      (h : State.Completes (u.sendByte b count) t) : State.Completes s t

/-- A byte is loaded in the phases of a transfer only, and `Next` itself sends nothing. -/
theorem nextByte_some {p : Pins} {s u : State} {b : Byte} {count : Bool}
    (h : nextByte p s = .next (u, some (b, count))) : u.busy = true ∧ u.byteTrace = s.byteTrace := by
  rcases nextByte_cases h with ⟨hp, _, e⟩ | ⟨hp, _, _, e⟩ | ⟨hp, _, _, e⟩ | ⟨hp, _, e⟩ | ⟨hp, _, e⟩ | ⟨hp, _, e⟩ |
      ⟨hp, _, e⟩ | ⟨hp, _, _, _, e⟩ | ⟨hp, _, e⟩ | ⟨hp, _, _, e⟩ | ⟨hp, _, _, e⟩ | ⟨hp, _, e⟩ | ⟨hp, _, e⟩ <;>
    cases e <;> exact ⟨by simp [State.busy, hp, Phase.busy], rfl⟩

/-- What is left of a transfer is played as the segments of the bytes that it sends. -/
theorem State.Completes.plays {s t : State} (h : s.Completes t) (c : Config.Timing) :
    ∃ x bytes, byteOver c .quiet s = .next x ∧ t.byteTrace = s.byteTrace ++ bytes ∧
      x.Plays c (levels c (wireSegments bytes)) t := by
  induction h with
  | @finish s t hnext =>
    have htrace : t.byteTrace = s.byteTrace := by rw [nextByte_none hnext, State.enterFirst_byteTrace]
    exact ⟨t, [], byteOver_of_none hnext, htrace.trans (List.append_nil _).symm, .refl t⟩
  | @load s u t b count hnext _ ih =>
    obtain ⟨x, bytes, hover, htrace, hplays⟩ := ih
    obtain ⟨hbusy, hsame⟩ := nextByte_some hnext
    refine ⟨u.load c b count, b :: bytes, byteOver_of_some hnext, ?_, ?_⟩
    · rw [htrace, State.sendByte_eq, hsame, List.append_assoc, List.singleton_append]
    · rw [← List.singleton_append, wireSegments_append, levels_append]
      exact State.plays_load hbusy hover hplays

/-! ### The rows of R141 as the steps of a transfer

The abstract operations do not write `BIDX` (log 4), so at the end of a byte the clocked machine is in the state of the
operation with its own `BIDX`. -/

/-- `s` with the sequencer at index `i` of its phase. -/
def State.atIndex (s : State) (i : BitVec 5) : State :=
  { s with bidx := i }

theorem State.sendByte_atIndex (s : State) (i : BitVec 5) (b : Byte) (count : Bool) :
    (s.atIndex i).sendByte b count = (s.sendByte b count).atIndex i := by
  rw [State.sendByte_eq, State.sendByte_eq]
  rfl

@[simp] theorem State.sendByte_phase (s : State) (b : Byte) (count : Bool) : (s.sendByte b count).phase = s.phase := by
  rw [State.sendByte_eq]

@[simp] theorem State.sendByte_addr (s : State) (b : Byte) (count : Bool) : (s.sendByte b count).addr = s.addr := by
  rw [State.sendByte_eq]

@[simp] theorem State.sendByte_pcur (s : State) (b : Byte) (count : Bool) : (s.sendByte b count).pcur = s.pcur := by
  rw [State.sendByte_eq]

@[simp] theorem State.sendByte_lenl (s : State) (b : Byte) (count : Bool) : (s.sendByte b count).lenl = s.lenl := by
  rw [State.sendByte_eq]

@[simp] theorem State.sendByte_blen (s : State) (b : Byte) (count : Bool) : (s.sendByte b count).blen = s.blen := by
  rw [State.sendByte_eq]

@[simp] theorem State.sendBytes_phase (s : State) (bytes : List Byte) (count : Bool) :
    (s.sendBytes bytes count).phase = s.phase := by
  obtain ⟨_, _, _, _, _, h⟩ := State.sendBytes_frame s bytes count
  rw [h]

@[simp] theorem State.sendBytes_addr (s : State) (bytes : List Byte) (count : Bool) :
    (s.sendBytes bytes count).addr = s.addr := by
  obtain ⟨_, _, _, _, _, h⟩ := State.sendBytes_frame s bytes count
  rw [h]

@[simp] theorem State.sendBytes_pcur (s : State) (bytes : List Byte) (count : Bool) :
    (s.sendBytes bytes count).pcur = s.pcur := by
  obtain ⟨_, _, _, _, _, h⟩ := State.sendBytes_frame s bytes count
  rw [h]

@[simp] theorem State.sendBytes_lenl (s : State) (bytes : List Byte) (count : Bool) :
    (s.sendBytes bytes count).lenl = s.lenl := by
  obtain ⟨_, _, _, _, _, h⟩ := State.sendBytes_frame s bytes count
  rw [h]

@[simp] theorem State.sendBytes_blen (s : State) (bytes : List Byte) (count : Bool) :
    (s.sendBytes bytes count).blen = s.blen := by
  obtain ⟨_, _, _, _, _, h⟩ := State.sendBytes_frame s bytes count
  rw [h]

section
variable {s t : State}

/-- One application of `Next`: its byte is sent, and the sequencer is at its new index. -/
theorem State.Completes.next {u : State} {i j : BitVec 5} {b : Byte} {count : Bool}
    (hnext : nextByte .quiet (s.atIndex i) = .next (u.atIndex j, some (b, count)))
    (h : ((u.sendByte b count).atIndex j).Completes t) : (s.atIndex i).Completes t := by
  rw [← State.sendByte_atIndex] at h
  exact .load hnext h

theorem State.Completes.preambleByte (hp : s.phase = .preamble)
    (h : ((s.sendByte Config.preambleByte false).atIndex 1).Completes t) : (s.atIndex 0).Completes t :=
  .next (u := s) (nextByte_preamble_first (s := s.atIndex 0) hp rfl) h

theorem State.Completes.markByte (hp : s.phase = .blockStart)
    (h : ((s.sendByte Config.markBlock false).atIndex 1).Completes t) : (s.atIndex 0).Completes t :=
  .next (u := s) (nextByte_blockStart_first (s := s.atIndex 0) hp rfl) h

theorem State.Completes.lenByte (hp : s.phase = .blockStart)
    (h : ((s.sizeBlock.clearSum.enter .blockBody).sendLen.atIndex 0).Completes t) : (s.atIndex 1).Completes t :=
  .next (u := s.sizeBlock.clearSum.enter .blockBody) (nextByte_blockStart_second (s := s.atIndex 1) hp rfl) h

theorem State.Completes.addrHi (hp : s.phase = .blockBody) (h : ((s.sendByte s.addrHi true).atIndex 1).Completes t) :
    (s.atIndex 0).Completes t :=
  .next (u := s) (nextByte_blockBody_addrHi (s := s.atIndex 0) hp rfl) h

theorem State.Completes.addrLo (hp : s.phase = .blockBody) (h : ((s.sendByte s.addrLo true).atIndex 2).Completes t) :
    (s.atIndex 1).Completes t :=
  .next (u := s) (nextByte_blockBody_addrLo (s := s.atIndex 1) hp rfl) h

theorem State.Completes.dataByte {k : Nat} (hp : s.phase = .blockBody) (hsized : s.BlockSized)
    (hk : k < s.blen.toNat)
    (h : ((s.sendByte (s.dataByte k) true).atIndex (BitVec.ofNat 5 (k + 1 + 2))).Completes t) :
    (s.atIndex (BitVec.ofNat 5 (k + 2))).Completes t := by
  have hle := hsized.blen_le
  have hwithin := hsized.within_payload
  have hidx : (s.atIndex (BitVec.ofNat 5 (k + 2))).bidx.toNat = k + 2 := by
    rw [State.atIndex, BitVec.toNat_ofNat]
    omega
  have h2 : 2 ≤ (s.atIndex (BitVec.ofNat 5 (k + 2))).bidx.toNat := by omega
  have hlast : (s.atIndex (BitVec.ofNat 5 (k + 2))).bidx.toNat ≤ s.blen.toNat + 1 := by omega
  have hin : s.dataIndex ((s.atIndex (BitVec.ofNat 5 (k + 2))).bidx.toNat - 2) < s.lenl.toNat := by
    rw [hidx, State.dataIndex]
    omega
  have hnext := nextByte_blockBody_data (p := .quiet) (s := s.atIndex (BitVec.ofNat 5 (k + 2))) hp h2 hlast hin
  rw [State.sampleData_eq (s := s.atIndex (BitVec.ofNat 5 (k + 2))) hp h2 hlast rfl, hidx, Nat.add_sub_cancel] at hnext
  have hsucc : BitVec.ofNat 5 (k + 1 + 2) = BitVec.ofNat 5 (k + 2) + 1 := BitVec.ofNat_add (k + 2) 1
  rw [hsucc] at h
  exact .next (u := s) hnext h

theorem State.Completes.checkByte (hp : s.phase = .blockBody) (hle : s.blen.toNat ≤ 16)
    (h : ((s.enter .blockChecksum).sendCheck.atIndex 0).Completes t) :
    (s.atIndex (BitVec.ofNat 5 (s.blen.toNat + 2))).Completes t := by
  have hidx : (s.atIndex (BitVec.ofNat 5 (s.blen.toNat + 2))).bidx.toNat = s.blen.toNat + 2 := by
    rw [State.atIndex, BitVec.toNat_ofNat]
    omega
  exact .next (u := s.enter .blockChecksum) (nextByte_blockBody_last hp hidx) h

theorem State.Completes.endByte (hp : s.phase = .trailer)
    (h : ((s.sendByte Config.markEnd false).atIndex 1).Completes t) : (s.atIndex 0).Completes t :=
  .next (u := s) (nextByte_trailer_first (s := s.atIndex 0) hp rfl) h

theorem State.Completes.done (hp : s.phase = .trailer) : (s.atIndex 1).Completes ((s.enter .done).atIndex 0) :=
  .finish (nextByte_trailer_second (s := s.atIndex 1) hp rfl)

end

/-! ### The steps put together -/

/-- `BLOCK` from its first marker byte to its length byte (R123 to R125, R131). -/
theorem State.Completes.beginBlock {s t : State} (hp : s.phase = .blockStart)
    (h : ((s.sendMark.sizeBlock.clearSum.enter .blockBody).sendLen.atIndex 0).Completes t) :
    ((s.sendByte Config.markS false).atIndex 0).Completes t :=
  .markByte ((s.sendByte_phase _ _).trans hp) (.lenByte (s := s.sendMark) ((s.sendBytes_phase _ _).trans hp) h)

/-- Both address bytes (R126): `ADDR` does not change between them. -/
theorem State.Completes.sendAddr {s t : State} (hp : s.phase = .blockBody) (h : (s.sendAddr.atIndex 2).Completes t) :
    (s.atIndex 0).Completes t := by
  have hlo : (s.sendByte s.addrHi true).addrLo = s.addrLo := congrArg loByte (s.sendByte_addr _ _)
  have hboth : s.sendAddr = (s.sendByte s.addrHi true).sendByte (s.sendByte s.addrHi true).addrLo true := by
    rw [hlo]
    rfl
  rw [hboth] at h
  exact .addrHi hp (.addrLo ((s.sendByte_phase _ _).trans hp) h)

/-- `s` with the first `k` data bytes of the block in progress sent. -/
def State.sendDataTo (s : State) (k : Nat) : State :=
  s.sendBytes ((List.range k).map s.dataByte) true

/-- Sending does not change the data bytes of the block (R52). -/
theorem State.sendDataTo_dataByte (s : State) (k : Nat) : (s.sendDataTo k).dataByte = s.dataByte := by
  funext j
  rw [State.dataByte, State.dataIndex, State.sendDataTo, State.sendBytes_pcur,
    State.payloadAt_congr (s.sendBytes_payload _ _)]
  rfl

theorem State.sendDataTo_succ (s : State) (k : Nat) :
    s.sendDataTo (k + 1) = (s.sendDataTo k).sendByte ((s.sendDataTo k).dataByte k) true := by
  rw [State.sendDataTo_dataByte, State.sendDataTo, List.range_succ, List.map_append, State.sendBytes, List.foldl_append]
  rfl

/-- The data bytes of a block, in order (R127). -/
theorem State.Completes.sendData {s t : State} (hp : s.phase = .blockBody) (hsized : s.BlockSized)
    (h : (s.sendData.atIndex (BitVec.ofNat 5 (s.blen.toNat + 2))).Completes t) : (s.atIndex 2).Completes t := by
  have hdown : ∀ k, k ≤ s.blen.toNat →
      ((s.sendDataTo k).atIndex (BitVec.ofNat 5 (k + 2))).Completes t → (s.atIndex 2).Completes t := by
    intro k
    induction k with
    | zero => exact fun _ h => h
    | succ k ih =>
      intro hk h
      have hblen : (s.sendDataTo k).blen = s.blen := s.sendBytes_blen _ _
      have hsized' : (s.sendDataTo k).BlockSized := hsized.congr hblen (s.sendBytes_cursors _ _)
      rw [State.sendDataTo_succ] at h
      exact ih (Nat.le_of_succ_le hk) (.dataByte ((s.sendBytes_phase _ _).trans hp) hsized' (hblen ▸ hk) h)
  exact hdown s.blen.toNat (Nat.le_refl _) h

/-- `BLOCK` up to the length of the block (R130, steps 1 and 2). -/
def State.beginBlock (s : State) : State :=
  (s.enter .blockStart).sendMark.sizeBlock.clearSum.enter .blockBody

/-- `BLOCK` from its length byte to its checksum byte (R130, steps 3 to 6). -/
def State.sendBody (s : State) : State :=
  (s.sendLen.sendAddr.sendData.enter .blockChecksum).sendCheck

theorem State.sendBlock_eq_advance (s : State) : s.sendBlock = s.beginBlock.sendBody.advance := rfl

theorem State.beginBlock_blockSized {s : State} (h : s.pcur.toNat < s.lenl.toNat) : s.beginBlock.BlockSized := by
  have hmark : (s.enter .blockStart).sendMark.pcur.toNat < (s.enter .blockStart).sendMark.lenl.toNat := by
    rw [State.sendMark, State.sendBytes_pcur, State.sendBytes_lenl]
    exact h
  obtain ⟨-, hsized⟩ := State.sizeBlock_phaseRange hmark
  exact hsized.congr (s := (s.enter .blockStart).sendMark.sizeBlock.clearSum.enterFirst .blockBody) rfl rfl

theorem State.sendBody_blockSized {s : State} (h : s.BlockSized) : s.sendBody.BlockSized :=
  h.congr (by simp [State.sendBody, State.sendLen, State.sendAddr, State.sendData, State.sendCheck])
    (by simp [State.sendBody, State.sendLen, State.sendAddr, State.sendData, State.sendCheck, State.cursors])

/-- From the length byte of a block to its checksum byte (R130). -/
theorem State.Completes.sendBody {s t : State} (hp : s.phase = .blockBody) (hsized : s.BlockSized)
    (h : (s.sendBody.atIndex 0).Completes t) : (s.sendLen.atIndex 0).Completes t := by
  have hlen : s.sendLen.phase = .blockBody := (s.sendByte_phase _ _).trans hp
  have haddr : s.sendLen.sendAddr.phase = .blockBody := (State.sendBytes_phase _ _ _).trans hlen
  have hdata : s.sendLen.sendAddr.sendData.phase = .blockBody := (State.sendBytes_phase _ _ _).trans haddr
  have hsized' : s.sendLen.sendAddr.BlockSized :=
    hsized.congr (by simp [State.sendLen, State.sendAddr]) (by simp [State.sendLen, State.sendAddr, State.cursors])
  have hblen : s.sendLen.sendAddr.sendData.blen = s.sendLen.sendAddr.blen := State.sendBytes_blen _ _ _
  have hcheck := State.Completes.checkByte hdata (by rw [hblen]; exact hsized'.blen_le) h
  rw [hblen] at hcheck
  exact .sendAddr hlen (.sendData haddr hsized' hcheck)

/-- After a block `Next` tests the advanced cursors (R129, R141). -/
theorem nextByte_after_block {p : Pins} {s : State} (hp : s.phase = .blockChecksum) (hsized : s.BlockSized) :
    nextByte p (s.atIndex 0) = nextBlockOrTrailer s.advance s.advance.pcur.toNat := by
  have hwithin := hsized.within_payload
  have hcursor : s.advance.pcur.toNat = s.pcurAfter := by
    rw [State.advance_pcur, BitVec.toNat_ofNat, State.pcurAfter]
    omega
  rw [hcursor]
  exact nextByte_blockChecksum (s := s.atIndex 0) hp rfl

/-- The trailer, from its first byte to `Done` (R135, R141). -/
theorem State.Completes.sendTrailer (s : State) :
    (((s.enter .trailer).sendByte Config.markS false).atIndex 0).Completes
      (((s.enter .trailer).sendTrailer.enter .done).atIndex 0) :=
  .endByte (State.sendByte_phase _ _ _) (.done (s := (s.enter .trailer).sendTrailer) (State.sendBytes_phase _ _ _))

/-- Where `Next` tests the cursors with no payload left, the trailer follows, then `Done` (R141). -/
theorem State.Completes.of_no_payload_left {v s : State} (h : s.pcur.toNat = s.lenl.toNat)
    (hnext : nextByte .quiet v = nextBlockOrTrailer s s.pcur.toNat) :
    v.Completes (((s.enter .trailer).sendTrailer.enter .done).atIndex 0) := by
  have hend := State.Completes.sendTrailer s
  rw [← State.sendByte_atIndex] at hend
  exact .load (hnext.trans (nextBlockOrTrailer_of_eq h)) hend

/-- R136: where `Next` tests the cursors, the loop over the blocks follows, then the trailer, then `Done`. -/
theorem State.Completes.sendBlocks {v s : State} {fuel : Nat} (hle : s.pcur.toNat ≤ s.lenl.toNat)
    (hfuel : s.lenl.toNat - s.pcur.toNat ≤ fuel)
    (hnext : nextByte .quiet v = nextBlockOrTrailer s s.pcur.toNat) :
    v.Completes (((((s.sendBlocks fuel).enter .trailer).sendTrailer).enter .done).atIndex 0) := by
  induction fuel generalizing v s with
  | zero => exact .of_no_payload_left (s := s) (by omega) hnext
  | succ fuel ih =>
    rw [State.sendBlocks]
    split
    case isTrue hlt =>
      obtain ⟨hpos, -, hn, -⟩ := blockLength_range s.addr.toNat (Nat.sub_pos_of_lt hlt)
      have hpcur := State.sendBlock_pcur_toNat hlt
      have hlenl := s.sendBlock_lenl
      have hsized := State.beginBlock_blockSized hlt
      have hphase : s.beginBlock.sendBody.phase = .blockChecksum := State.sendByte_phase _ _ _
      have hloop := nextByte_after_block (p := .quiet) hphase (State.sendBody_blockSized hsized)
      rw [← State.sendBlock_eq_advance] at hloop
      have hrest := ih (by rw [hlenl]; omega) (by rw [hlenl]; omega) hloop
      have hblock := State.Completes.beginBlock (s := s.enter .blockStart) rfl (.sendBody rfl hsized hrest)
      rw [← State.sendByte_atIndex] at hblock
      exact .load (hnext.trans (nextBlockOrTrailer_of_lt hlt)) hblock
    case isFalse hend => exact .of_no_payload_left (by omega) hnext

/-- From the first preamble byte of a transfer to `Done` (R120, R136). -/
theorem State.Completes.sendPreamble {s : State} (hp : s.phase = .preamble) (hpcur : s.pcur = 0) :
    ((s.sendByte Config.preambleByte false).atIndex 0).Completes
      (((((s.sendPreamble.sendBlocks s.lenl.toNat).enter .trailer).sendTrailer).enter .done).atIndex 0) := by
  have hp1 : (s.sendByte Config.preambleByte false).phase = .preamble := (s.sendByte_phase _ _).trans hp
  have hp2 : s.sendPreamble.phase = .preamble := (s.sendBytes_phase _ _).trans hp
  have hpcur2 : s.sendPreamble.pcur = 0 := (s.sendBytes_pcur _ _).trans hpcur
  have hlenl2 : s.sendPreamble.lenl = s.lenl := s.sendBytes_lenl _ _
  exact .preambleByte hp1 (.sendBlocks (v := s.sendPreamble.atIndex 1) (by simp [hpcur2]) (by simp [hpcur2, hlenl2])
    (nextByte_preamble_second (s := s.sendPreamble.atIndex 1) hp2 rfl))

/-- Sending leaves `BIDX` alone (log 4). -/
theorem State.Sent.bidx {s t : State} {bytes : List Byte} (h : s.Sent t bytes) : t.bidx = s.bidx := by
  have hunsent := h.unsent
  simp only [State.unsent, Prod.mk.injEq] at hunsent
  obtain ⟨⟨-, -, hbidx⟩, -⟩ := hunsent
  exact hbidx

/-- R136, R141: after the first preamble byte the clocked machine completes the transfer as `TRANSMIT` does. -/
theorem State.completes_transmit (s : State) {base : Addr} {len : Len} (hfit : base.toNat + len.toNat ≤ 65536) :
    ((s.latch base len).sendByte Config.preambleByte false).Completes (s.transmit base len) := by
  have hbidx : (s.transmit base len).bidx = 0 := (s.sent_transmit hfit).bidx
  have hdone : (s.transmit base len).atIndex 0 = s.transmit base len := by
    rw [← hbidx]
    rfl
  have hend := State.Completes.sendPreamble (s := s.latch base len) rfl rfl
  rw [← State.sendByte_atIndex] at hend
  rw [← hdone]
  exact hend

end Sys2Proof.Machine
end

section
/-! The run of a whole transfer on a schedule of clock edges (R146, R147): the state it ends in, and the waveform. -/

namespace Sys2Proof.Machine

/-! ### The schedule is not read while busy -/

/-- `Next` does not read the schedule. -/
theorem nextByte_withInputs {p : Pins} {s u : State} {o : Option (Byte × Bool)} (h : nextByte p s = .next (u, o))
    (xs : List Stimulus) : nextByte p (s.withInputs xs) = .next (u.withInputs xs, o) := by
  rcases nextByte_cases h with ⟨hp, hi, e⟩ | ⟨hp, hi, hc, e⟩ | ⟨hp, hi, hc, e⟩ | ⟨hp, hi, e⟩ | ⟨hp, hi, e⟩ |
      ⟨hp, hi, e⟩ | ⟨hp, hi, e⟩ | ⟨hp, h2, hi, hc, e⟩ | ⟨hp, hi, e⟩ | ⟨hp, hi, hc, e⟩ | ⟨hp, hi, hc, e⟩ | ⟨hp, hi, e⟩ |
      ⟨hp, hi, e⟩ <;>
    cases e
  · exact nextByte_preamble_first (s := s.withInputs xs) hp hi
  · exact (nextByte_preamble_second (s := s.withInputs xs) hp hi).trans (nextBlockOrTrailer_of_lt hc)
  · exact (nextByte_preamble_second (s := s.withInputs xs) hp hi).trans (nextBlockOrTrailer_of_eq hc)
  · exact nextByte_blockStart_first (s := s.withInputs xs) hp hi
  · exact nextByte_blockStart_second (s := s.withInputs xs) hp hi
  · exact nextByte_blockBody_addrHi (s := s.withInputs xs) hp hi
  · exact nextByte_blockBody_addrLo (s := s.withInputs xs) hp hi
  · exact nextByte_blockBody_data (s := s.withInputs xs) hp h2 hi hc
  · exact nextByte_blockBody_last (s := s.withInputs xs) hp hi
  · exact (nextByte_blockChecksum (s := s.withInputs xs) hp hi).trans
      (nextBlockOrTrailer_of_lt (s := s.advance.withInputs xs) hc)
  · exact (nextByte_blockChecksum (s := s.withInputs xs) hp hi).trans
      (nextBlockOrTrailer_of_eq (s := s.advance.withInputs xs) hc)
  · exact nextByte_trailer_first (s := s.withInputs xs) hp hi
  · exact nextByte_trailer_second (s := s.withInputs xs) hp hi

/-- An edge while busy does not read the schedule. -/
theorem busyTick_withInputs {c : Config.Timing} {p : Pins} {s t : State} (h : busyTick c p s = .next t)
    (xs : List Stimulus) : busyTick c p (s.withInputs xs) = .next (t.withInputs xs) := by
  obtain ⟨h9, ⟨ht, rfl⟩ | ⟨ht, hh, rfl⟩ | ⟨ht, hh, hlt, rfl⟩ | ⟨ht, hh, heq, hover⟩⟩ := busyTick_cases h
  · exact busyTick_countdown (s := s.withInputs xs) h9 ht
  · exact busyTick_endHighHalf (s := s.withInputs xs) h9 ht hh
  · exact busyTick_nextFrameBit (s := s.withInputs xs) hlt ht hh
  · refine (busyTick_byteOver (s := s.withInputs xs) (BitVec.eq_of_toNat_eq heq) ht hh).trans ?_
    obtain ⟨u, b, count, hnext, rfl⟩ | hnext := byteOver_cases hover
    · exact byteOver_of_some (nextByte_withInputs hnext xs)
    · exact byteOver_of_none (nextByte_withInputs hnext xs)

/-! ### Runs and waveforms -/

theorem waveform_succ {s t : State} (h : step s = .next t) (k : Nat) : waveform (k + 1) s = t.line :: waveform k t := by
  simp only [waveform, h]

/-- A scheduled edge of a conforming run takes a busy machine where a quiet edge does. -/
theorem step_conforming {s t : State} {p : Pins} (xs : List Stimulus) (hlive : s.live = true) (hbusy : s.busy = true)
    (hp : p.Conforming) (h : busyTick Config.timing .quiet s = .next t) :
    step (s.withInputs (.edge p :: xs)) = .next (t.withInputs xs) := by
  obtain ⟨hrst, hdata⟩ := hp
  calc step (s.withInputs (.edge p :: xs)) = tick Config.timing p (s.withInputs xs) :=
        step_edge (s := s.withInputs (.edge p :: xs)) (.scheduled xs rfl) hlive
    _ = busyTick Config.timing p (s.withInputs xs) := tick_of_busy Config.timing hrst hbusy
    _ = busyTick Config.timing .quiet (s.withInputs xs) := busyTick_pins Config.timing _ hdata
    _ = .next (t.withInputs xs) := busyTick_withInputs h xs

/-- What is played from the next state of `a` is what the run of `a` shows, one step later; `a` is followed by as many
conforming edges as there are periods. -/
theorem State.Plays.run {s t : State} {ls : List Bool} (h : s.Plays Config.timing ls t) (hlive : s.live = true)
    {ps : List Pins} (hps : ∀ q ∈ ps, q.Conforming) (hlen : ps.length = ls.length) {rest : List Stimulus} {a : State}
    (ha : step a = .next (s.withInputs (ps.map Stimulus.edge ++ rest))) :
    Host.Core.run Sys2Proof.core (ls.length + 1) a = .next (t.withInputs rest) ∧ waveform ls.length a = ls ∧
      waveform (ls.length + 1) a = ls ++ [t.line] := by
  induction h generalizing ps a with
  | refl s =>
    cases List.eq_nil_of_length_eq_zero hlen
    exact ⟨run_succ ha 0, rfl, waveform_succ ha 0⟩
  | @edge s u t ls hbusy htick _ ih =>
    obtain ⟨p, ps, rfl⟩ := List.exists_cons_of_length_eq_add_one hlen
    obtain ⟨hp, hps'⟩ := List.forall_mem_cons.1 hps
    obtain ⟨_, _, _, hulive⟩ := busyTick_keeps htick
    have hstep := step_conforming (ps.map Stimulus.edge ++ rest) hlive hbusy hp htick
    obtain ⟨hrun, hwave, hwave'⟩ := ih (hulive.trans hlive) hps' (Nat.succ_injective hlen) hstep
    refine ⟨(run_succ ha _).trans hrun, ?_, ?_⟩
    · exact (waveform_succ ha _).trans (congrArg _ hwave)
    · exact (waveform_succ ha _).trans (congrArg _ hwave')

/-! ### The number of periods -/

theorem levels_length (c : Config.Timing) (segs : List Segment) :
    (levels c segs).length = segmentsTime c.nShort c.nLong segs := by
  have hone : ∀ g : Segment, c.periods g.dur = segmentTime c.nShort c.nLong g := by
    rintro ⟨high, dur⟩
    cases dur <;> rfl
  simp only [levels, segmentsTime, List.length_flatMap, List.length_replicate, hone]

/-- R147: a byte list lasts as long as its frames. -/
theorem segmentsTime_wireSegments (tShort tLong : Nat) (bytes : List Byte) :
    segmentsTime tShort tLong (wireSegments bytes) = bytesTime tShort tLong bytes := by
  induction bytes with
  | nil => rfl
  | cons b bytes ih =>
    rw [← List.singleton_append, wireSegments_append, segmentsTime_append, segmentsTime_wireSegments_singleton, ih,
      bytesTime, bytesTime, List.map_append, List.sum_append]
    rfl

/-! ### The whole transfer -/

/-- R147: from the first period of the start bit on, an accepted transfer plays the segments of its stream and ends in
the state of `TRANSMIT`. -/
theorem State.plays_transmit (s : State) (c : Config.Timing) {base : Addr} {len : Len}
    (hfit : base.toNat + len.toNat ≤ 65536) :
    ((s.latch base len).load c Config.preambleByte false).Plays c
      (levels c (wireSegments (stream base.toNat len.toNat s.payloadAt))) (s.transmit base len) := by
  obtain ⟨x, bytes, hover, htrace, hplays⟩ := (s.completes_transmit hfit).plays c
  have hbytes : stream base.toNat len.toNat s.payloadAt = [Config.preambleByte] ++ bytes := by
    have hsent := (s.sent_transmit hfit).byteTrace
    rw [htrace, State.sendByte_eq, List.append_assoc] at hsent
    exact (List.append_cancel_left hsent).symm
  rw [hbytes, wireSegments_append, levels_append]
  exact State.plays_load rfl hover hplays

/-- Sending leaves the schedule alone. -/
theorem State.Sent.inputs {s t : State} {bytes : List Byte} (h : s.Sent t bytes) : t.inputs = s.inputs := by
  have hunsent := h.unsent
  simp only [State.unsent, Prod.mk.injEq] at hunsent
  obtain ⟨-, -, hinputs, -⟩ := hunsent
  exact hinputs

/-- The edge of an accepted START (R150, R164). -/
theorem step_accepted_start {s : State} {p : Pins} {xs : List Stimulus} (hlive : s.live = true)
    (hidle : s.busy = false) (hrst : p.rst = false) (hstart : p.start = true)
    (hfit : p.base.toNat + p.len.toNat ≤ 65536) (hinputs : s.inputs = .edge p :: xs) :
    step s = .next ((s.withInputs xs).acceptStart Config.timing p.base p.len) := by
  rw [step_edge (.scheduled xs hinputs) hlive, State.popped, hinputs, List.tail_cons]
  simp only [tick, hrst, hidle, hstart, State.startEdge, State.withInputs_busy, (fitsTarget_iff _ _).2 hfit,
    Bool.false_eq_true, if_false, if_true]

/-- An accepted START and an edge for each period of the stream: where the run ends, and what the line shows. -/
theorem run_accepted_start {s : State} {p : Pins} {ps : List Pins} {rest : List Stimulus} (hlive : s.live = true)
    (hidle : s.busy = false) (hrst : p.rst = false) (hstart : p.start = true)
    (hfit : p.base.toNat + p.len.toNat ≤ 65536) (hps : ∀ q ∈ ps, q.Conforming)
    (hlen : ps.length = transferPeriods s p.base p.len) (hinputs : s.inputs = (p :: ps).map Stimulus.edge ++ rest) :
    Host.Core.run Sys2Proof.core (ps.length + 1) s =
        .next (State.transmit { s with err := false, inputs := rest } p.base p.len) ∧
      waveform ps.length s = levels Config.timing (wireSegments (stream p.base.toNat p.len.toNat s.payloadAt)) ∧
      waveform (ps.length + 1) s =
        levels Config.timing (wireSegments (stream p.base.toNat p.len.toNat s.payloadAt)) ++ [false] := by
  generalize hu : ({ s with err := false, inputs := rest } : State) = u
  have hpayload : u.payloadAt = s.payloadAt := by rw [← hu]; rfl
  have hulive : u.live = true := by rw [← hu]; exact hlive
  have hplays := u.plays_transmit Config.timing hfit
  rw [hpayload] at hplays
  have hperiods : ps.length =
      (levels Config.timing (wireSegments (stream p.base.toNat p.len.toNat s.payloadAt))).length := by
    rw [hlen, levels_length, segmentsTime_wireSegments, transferPeriods]
  have hfirst : step s = .next
      (((u.latch p.base p.len).load Config.timing Config.preambleByte false).withInputs
        (ps.map Stimulus.edge ++ rest)) := by
    rw [step_accepted_start hlive hidle hrst hstart hfit hinputs, ← hu]
    rfl
  have hkept : (u.transmit p.base p.len).withInputs rest = u.transmit p.base p.len := by
    have hsame : (u.transmit p.base p.len).inputs = rest := by rw [(u.sent_transmit hfit).inputs, ← hu]; rfl
    rw [← hsame, State.withInputs_inputs_self]
  have hrun := hplays.run (a := s) hulive hps hperiods hfirst
  rw [← hperiods, hkept, State.transmit_line] at hrun
  exact hrun

/-- Settles O48: the clocked run and `TRANSMIT` end in one state. -/
theorem clockedRunIsTransmit : Obligations.ClockedRunIsTransmit := by
  intro s p ps rest hlive hidle hrst hstart hfit hps hlen hinputs
  obtain ⟨hrun, -, -⟩ := run_accepted_start hlive hidle hrst hstart hfit hps hlen hinputs
  exact hrun.trans (exec_transmit _ hfit).symm

/-- Settles O49: the line of the same run, period by period, and after the last one. -/
theorem lineShowsTheStream : Obligations.LineShowsTheStream := by
  intro s p ps rest hlive hidle hrst hstart hfit hps hlen hinputs
  obtain ⟨-, hwave, hwave'⟩ := run_accepted_start hlive hidle hrst hstart hfit hps hlen hinputs
  exact ⟨hwave, hwave'.trans (hwave ▸ rfl)⟩

end Sys2Proof.Machine
end

section
/-! The host interface (`spec/43_host_interface.md`): START, RESET, the payload address and the status outputs. -/

namespace Sys2Proof.Machine

/-! ### START and RESET as operations -/

theorem exec_start (base : Addr) (len : Len) (s : State) :
    exec (.start base len) s = .next (s.startEdge Config.timing base len) := rfl

theorem exec_reset (s : State) : exec .reset s = .next s.toReset := rfl

section
variable {s : State} {base : Addr} {len : Len}

theorem State.startEdge_of_busy (c : Config.Timing) (hbusy : s.busy = true) : s.startEdge c base len = s :=
  if_pos hbusy

theorem State.startEdge_of_fits (c : Config.Timing) (hidle : s.busy = false)
    (hfit : base.toNat + len.toNat ≤ 65536) : s.startEdge c base len = s.acceptStart c base len := by
  rw [State.startEdge, if_neg (by simp [hidle]), if_pos ((fitsTarget_iff _ _).2 hfit)]

theorem State.startEdge_of_exceeds (c : Config.Timing) (hidle : s.busy = false)
    (hlong : 65536 < base.toNat + len.toNat) : s.startEdge c base len = s.takeCfgError := by
  rw [State.startEdge, if_neg (by simp [hidle]), if_neg (by simpa using hlong)]

end

/-- Settles O35: an accepted START is `acceptStart`, whose first byte is not counted and begins with a long bit. -/
theorem acceptedStartBeginsPreamble : Obligations.AcceptedStartBeginsPreamble := by
  intro s base len hidle hfit
  rw [exec_start, State.startEdge_of_fits Config.timing hidle hfit, State.acceptStart, State.load_eq]
  rfl

/-- Settles O37: `startEdge` tests for a transfer in progress first. -/
theorem startWhileBusyIsIgnored : Obligations.StartWhileBusyIsIgnored := by
  intro s base len hbusy
  rw [exec_start, State.startEdge_of_busy Config.timing hbusy]

/-! ### What an edge does with `RST` and `START` (R164) -/

section
variable {p : Pins} {s : State}

theorem tick_of_reset (c : Config.Timing) (hrst : p.rst = true) : tick c p s = .next s.toReset :=
  if_pos hrst

theorem tick_of_start (c : Config.Timing) (hrst : p.rst = false) (hidle : s.busy = false) (hstart : p.start = true) :
    tick c p s = .next (s.startEdge c p.base p.len) := by
  rw [tick, if_neg (by simp [hrst]), if_neg (by simp [hidle]), if_pos hstart]

theorem tick_of_no_start (c : Config.Timing) (hrst : p.rst = false) (hidle : s.busy = false)
    (hstart : p.start = false) : tick c p s = .next s := by
  rw [tick, if_neg (by simp [hrst]), if_neg (by simp [hidle]), if_neg (by simp [hstart])]

/-- An edge with `RST = 1` needs no reset before it (R182). -/
theorem step_edge_of_reset {rest : List Stimulus} (hinputs : s.inputs = .edge p :: rest) (hrst : p.rst = true) :
    step s = .next (s.withInputs rest).toReset := by
  simp only [step, hinputs, stimulate]
  rw [edgeStep, if_neg (by simp [hrst]), tick_of_reset Config.timing hrst]

end

/-- Settles O38: `RST` is tested before everything else, and both forms of reset are `toReset`. -/
theorem resetWorksFromEveryState : Obligations.ResetWorksFromEveryState :=
  ⟨fun _ => rfl, fun _ _ _ hinputs hrst => (step_edge_of_reset hinputs hrst).trans (exec_reset _).symm⟩

/-! ### The payload address (R155) -/

theorem State.wantsData_iff (s : State) :
    s.wantsData = true ↔ s.phase = .blockBody ∧ 2 ≤ s.bidx.toNat ∧ s.bidx.toNat ≤ s.blen.toNat + 1 := by
  simp [State.wantsData, and_assoc]

theorem State.pAddr_of_wantsData {s : State} (h : s.wantsData = true) :
    s.pAddr = BitVec.ofNat 16 (s.dataIndex (s.bidx.toNat - 2)) :=
  if_pos h

theorem State.pAddr_of_not_wantsData {s : State} (h : ¬s.wantsData = true) : s.pAddr = s.pcur.setWidth 16 :=
  if_neg h

/-- `P_ADDR` depends on the position of the sequencer alone. -/
theorem State.pAddr_congr {s t : State} (h : t.position = s.position) : t.pAddr = s.pAddr := by
  simp only [State.position, State.cursors, Prod.mk.injEq] at h
  obtain ⟨⟨hphase, hbidx, hblen⟩, _, hpcur, _⟩ := h
  have hwants : t.wantsData = s.wantsData := by rw [State.wantsData, State.wantsData, hphase, hbidx, hblen]
  rw [State.pAddr, State.pAddr, State.dataIndex, State.dataIndex, hwants, hbidx, hpcur]

/-- Where a byte ends does not depend on the schedule. -/
theorem State.withInputs_atByteEnd (s : State) (xs : List Stimulus) : (s.withInputs xs).AtByteEnd ↔ s.AtByteEnd :=
  ⟨fun ⟨hlive, h9, hhalf, htimer⟩ => ⟨hlive, h9, hhalf, htimer⟩,
    fun ⟨hlive, h9, hhalf, htimer⟩ => ⟨hlive, h9, hhalf, htimer⟩⟩

/-- While busy only the end of a byte moves the sequencer (R112, R146). -/
theorem busyTick_position {c : Config.Timing} {p : Pins} {s t : State} (hlive : s.live = true)
    (h : busyTick c p s = .next t) (hend : ¬s.AtByteEnd) : t.position = s.position := by
  obtain ⟨_, ⟨_, rfl⟩ | ⟨_, _, rfl⟩ | ⟨_, _, _, rfl⟩ | ⟨htimer, hhalf, h9, _⟩⟩ := busyTick_cases h
  · rfl
  · rfl
  · rfl
  · exact absurd ⟨hlive, BitVec.eq_of_toNat_eq h9, hhalf, htimer⟩ hend

/-- Settles O44: the two values are those of `pAddr`, and an edge that ends no byte leaves the position, on which
`P_ADDR` depends. -/
theorem payloadAddressIsStableForAFrame : Obligations.PayloadAddressIsStableForAFrame := by
  refine ⟨fun s hp h2 hle => ?_, fun s hnot => ?_, fun s t p rest hlive hbusy hinputs hrst hend hstep => ?_⟩
  · rw [State.pAddr_of_wantsData (s.wantsData_iff.2 ⟨hp, h2, hle⟩), BitVec.toNat_ofNat, State.dataIndex,
      ← Nat.add_sub_assoc h2]
  · rw [State.pAddr_of_not_wantsData (mt s.wantsData_iff.1 hnot), BitVec.toNat_setWidth]
  · rw [step_edge (.scheduled rest hinputs) hlive, tick_of_busy (s := s.popped) Config.timing hrst hbusy] at hstep
    have hpopped : ¬s.popped.AtByteEnd := mt (s.withInputs_atByteEnd _).1 hend
    exact State.pAddr_congr (s := s) (busyTick_position (s := s.popped) hlive hstep hpopped)

/-! ### In the ranges every edge has a next state (R160, R175) -/

theorem eq_zero_or_one_of_toNat_le {i : BitVec 5} (h : i.toNat ≤ 1) : i = 0 ∨ i = 1 := by
  bv_omega

theorem nextBlockOrTrailer_answers {s : State} {cursor : Nat} (h : cursor ≤ s.lenl.toNat) :
    ∃ r, nextBlockOrTrailer s cursor = .next r := by
  rcases Nat.lt_or_eq_of_le h with hlt | heq
  · exact ⟨_, nextBlockOrTrailer_of_lt hlt⟩
  · exact ⟨_, nextBlockOrTrailer_of_eq heq⟩

/-- Inside a block body the index names an address byte, a data byte of the slice, or the checksum. -/
theorem nextByte_blockBody_answers {s : State} (p : Pins) (hp : s.phase = .blockBody)
    (hi : s.bidx.toNat ≤ s.blen.toNat + 2) (hsized : s.BlockSized) : ∃ r, nextByte p s = .next r := by
  by_cases hfirst : s.bidx.toNat ≤ 1
  · rcases eq_zero_or_one_of_toNat_le hfirst with h0 | h1
    · exact ⟨_, nextByte_blockBody_addrHi hp h0⟩
    · exact ⟨_, nextByte_blockBody_addrLo hp h1⟩
  · rcases Nat.lt_or_eq_of_le hi with hlt | heq
    · have hwithin := hsized.within_payload
      have hin : s.dataIndex (s.bidx.toNat - 2) < s.lenl.toNat := by
        rw [State.dataIndex]
        omega
      exact ⟨_, nextByte_blockBody_data hp (by omega) (by omega) hin⟩
    · exact ⟨_, nextByte_blockBody_last hp heq⟩

/-- Every position in the ranges is in the table of R141. -/
theorem nextByte_answers {s : State} (p : Pins) (hbusy : s.busy = true) (hpcur : s.pcur.toNat ≤ s.lenl.toNat)
    (hrange : s.PhaseRange) : ∃ r, nextByte p s = .next r := by
  cases hp : s.phase with
  | idle | done => simp [State.busy, hp, Phase.busy] at hbusy
  | preamble =>
    obtain ⟨hi, _⟩ := (State.phaseRange_of_preamble hp).1 hrange
    rcases eq_zero_or_one_of_toNat_le hi with h0 | h1
    · exact ⟨_, nextByte_preamble_first hp h0⟩
    · exact (nextBlockOrTrailer_answers hpcur).imp fun _ => (nextByte_preamble_second hp h1).trans
  | blockStart =>
    obtain ⟨hi, _⟩ := (State.phaseRange_of_blockStart hp).1 hrange
    rcases eq_zero_or_one_of_toNat_le hi with h0 | h1
    · exact ⟨_, nextByte_blockStart_first hp h0⟩
    · exact ⟨_, nextByte_blockStart_second hp h1⟩
  | blockBody =>
    obtain ⟨hi, hsized⟩ := (State.phaseRange_of_blockBody hp).1 hrange
    exact nextByte_blockBody_answers p hp hi hsized
  | blockChecksum =>
    obtain ⟨h0, hsized⟩ := (State.phaseRange_of_blockChecksum hp).1 hrange
    exact (nextBlockOrTrailer_answers (s := s.advance) hsized.within_payload).imp fun _ =>
      (nextByte_blockChecksum hp h0).trans
  | trailer =>
    obtain ⟨hi, _⟩ := (State.phaseRange_of_trailer hp).1 hrange
    rcases eq_zero_or_one_of_toNat_le hi with h0 | h1
    · exact ⟨_, nextByte_trailer_first hp h0⟩
    · exact ⟨_, nextByte_trailer_second hp h1⟩

theorem byteOver_answers {c : Config.Timing} {p : Pins} {s : State} (h : ∃ r, nextByte p s = .next r) :
    ∃ t, byteOver c p s = .next t := by
  obtain ⟨⟨u, o⟩, hnext⟩ := h
  cases o with
  | some load => exact ⟨_, byteOver_of_some hnext⟩
  | none => exact ⟨_, byteOver_of_none hnext⟩

theorem busyTick_answers {s : State} (c : Config.Timing) (p : Pins) (hs : s.Ranges) (hbusy : s.busy = true) :
    ∃ t, busyTick c p s = .next t := by
  by_cases htimer : 1 < s.timer
  · exact ⟨_, busyTick_countdown hs.bitpos_le htimer⟩
  replace htimer := Nat.le_of_not_lt htimer
  cases hhalf : s.half with
  | false => exact ⟨_, busyTick_endHighHalf hs.bitpos_le htimer hhalf⟩
  | true =>
    rcases Nat.lt_or_eq_of_le hs.bitpos_le with hlt | h9
    · exact ⟨_, busyTick_nextFrameBit hlt htimer hhalf⟩
    · have hrange : s.recordBit.recordByte.PhaseRange := State.phaseRange_congr (s := s) rfl hs.in_phase
      have hnext := nextByte_answers (s := s.recordBit.recordByte) p hbusy hs.pcur_le hrange
      exact (byteOver_answers hnext).imp fun _ =>
        (busyTick_byteOver (BitVec.eq_of_toNat_eq h9) htimer hhalf).trans

theorem tick_answers {s : State} (c : Config.Timing) (p : Pins) (hs : s.Ranges) : ∃ t, tick c p s = .next t := by
  cases hrst : p.rst with
  | true => exact ⟨_, tick_of_reset c hrst⟩
  | false =>
    cases hbusy : s.busy with
    | true => exact (busyTick_answers c p hs hbusy).imp fun _ => (tick_of_busy c hrst hbusy).trans
    | false =>
      cases hstart : p.start with
      | true => exact ⟨_, tick_of_start c hrst hbusy hstart⟩
      | false => exact ⟨_, tick_of_no_start c hrst hbusy hstart⟩

/-! ### The status outputs (R157) -/

theorem State.done_iff (s : State) : s.done = true ↔ s.phase = .done :=
  beq_iff_eq

/-- `BUSY` and `DONE` are never both 1. -/
theorem State.done_of_busy {s : State} (h : s.busy = true) : s.done = false := by
  refine Bool.eq_false_iff.2 fun hdone => ?_
  rw [State.busy, s.done_iff.1 hdone] at h
  cases h

/-- `s` is at the last period of the trailer's last stop bit. -/
def State.EndsTransfer (s : State) : Prop :=
  s.AtByteEnd ∧ s.phase = .trailer ∧ s.bidx = 1

/-- `Next` keeps the machine busy and loads a byte, but for the last row of R141. -/
theorem nextByte_status {p : Pins} {s u : State} {o : Option (Byte × Bool)} (h : nextByte p s = .next (u, o)) :
    (¬(s.phase = .trailer ∧ s.bidx = 1) ∧ o ≠ none ∧ u.busy = true) ∨
      (s.phase = .trailer ∧ s.bidx = 1 ∧ o = none ∧ u.phase = .done) := by
  rcases nextByte_cases h with ⟨hp, _, e⟩ | ⟨hp, _, _, e⟩ | ⟨hp, _, _, e⟩ | ⟨hp, _, e⟩ | ⟨hp, _, e⟩ | ⟨hp, _, e⟩ |
      ⟨hp, _, e⟩ | ⟨hp, _, _, _, e⟩ | ⟨hp, _, e⟩ | ⟨hp, _, _, e⟩ | ⟨hp, _, _, e⟩ | ⟨hp, hi, e⟩ | ⟨hp, hi, e⟩ <;>
    cases e <;> simp [State.busy, Phase.busy, *]

/-- An edge while busy goes on with the transfer, but for the edge that ends the trailer's last stop bit. -/
theorem busyTick_status {c : Config.Timing} {p : Pins} {s t : State} (hlive : s.live = true) (hbusy : s.busy = true)
    (h : busyTick c p s = .next t) :
    (¬s.EndsTransfer ∧ t.busy = true) ∨ (s.EndsTransfer ∧ t.phase = .done) := by
  obtain ⟨_, ⟨ht, rfl⟩ | ⟨_, hhigh, rfl⟩ | ⟨_, _, hlt, rfl⟩ | ⟨htimer, hhalf, h9, hover⟩⟩ := busyTick_cases h
  · exact .inl ⟨fun ⟨hend, _⟩ => absurd hend.timer (Nat.not_le.2 ht), hbusy⟩
  · exact .inl ⟨fun ⟨hend, _⟩ => absurd hend.half (by simp [hhigh]), hbusy⟩
  · exact .inl ⟨fun ⟨hend, _⟩ => absurd hlt (by simp [hend.bitpos]), hbusy⟩
  · have hend : s.AtByteEnd := ⟨hlive, BitVec.eq_of_toNat_eq h9, hhalf, htimer⟩
    obtain ⟨u, b, count, hnext, rfl⟩ | hnext := byteOver_cases hover
    · obtain ⟨hnot, _, hub⟩ | ⟨_, _, hnone, _⟩ := nextByte_status hnext
      · exact .inl ⟨fun ⟨_, hlast⟩ => hnot hlast, hub⟩
      · cases hnone
    · obtain ⟨_, hsome, _⟩ | ⟨hp, hi, _, hdone⟩ := nextByte_status hnext
      · exact absurd rfl hsome
      · exact .inr ⟨⟨hend, hp, hi⟩, hdone⟩

/-- `DONE` rises exactly at the end of a transfer, and `BUSY` falls with it. -/
theorem busyTick_done_busy {c : Config.Timing} {p : Pins} {s t : State} (hlive : s.live = true)
    (hbusy : s.busy = true) (h : busyTick c p s = .next t) :
    (t.done = true ↔ s.EndsTransfer) ∧ t.busy = !t.done := by
  obtain ⟨hnot, ht⟩ | ⟨hend, hp⟩ := busyTick_status hlive hbusy h
  · have hdone := State.done_of_busy ht
    exact ⟨⟨fun h1 => absurd h1 (by simp [hdone]), fun he => absurd he hnot⟩, by rw [ht, hdone]; rfl⟩
  · have hdone := t.done_iff.2 hp
    exact ⟨⟨fun _ => hend, fun _ => hdone⟩, by rw [hdone, State.busy, hp]; rfl⟩

/-- Settles O47: the ranges give the next state and the rule of `ERR`; what the next state is follows from `RST`, `BUSY`
and `START`, in this order. -/
theorem statusOutputsFollowTheRules : Obligations.StatusOutputsFollowTheRules := by
  intro s p rest ⟨_, hranges⟩ hlive hinputs
  have hs : s.Ranges := hranges hlive
  have hpopped : s.popped.Ranges := hs.congr (s := s) rfl
  refine ⟨fun ⟨hbusy, hdone⟩ => by simp [State.done_of_busy hbusy] at hdone, fun herr => ?_, ?_⟩
  · have hp := hs.err_idle herr
    simp [State.busy, State.done, Phase.busy, hp]
  obtain ⟨t, htick⟩ := tick_answers Config.timing p hpopped
  refine ⟨t, (step_edge (.scheduled rest hinputs) hlive).trans htick, fun hrst hidle hstart hfit => ?_,
    fun hrst hidle hstart hlong => ?_, fun hrst hidle hstart => ?_, fun hrst hbusy => ?_, fun hrst => ?_⟩
  · rw [tick_of_start (s := s.popped) Config.timing hrst hidle hstart,
      State.startEdge_of_fits (s := s.popped) Config.timing hidle hfit] at htick
    cases htick
    exact ⟨rfl, rfl, rfl⟩
  · rw [tick_of_start (s := s.popped) Config.timing hrst hidle hstart,
      State.startEdge_of_exceeds (s := s.popped) Config.timing hidle hlong] at htick
    cases htick
    exact ⟨rfl, rfl, rfl⟩
  · rw [tick_of_no_start (s := s.popped) Config.timing hrst hidle hstart] at htick
    cases htick
    exact ⟨rfl, rfl, hidle⟩
  · rw [tick_of_busy (s := s.popped) Config.timing hrst hbusy] at htick
    obtain ⟨_, _, herr, _⟩ := busyTick_keeps htick
    obtain ⟨hdone, hnotdone⟩ := busyTick_done_busy (s := s.popped) hlive hbusy htick
    exact ⟨herr, hdone.trans (and_congr_left' (s.withInputs_atByteEnd _)), hnotdone⟩
  · rw [tick_of_reset Config.timing hrst] at htick
    cases htick
    exact ⟨rfl, rfl, rfl⟩

end Sys2Proof.Machine
end

section
/-! The exception and the order of events (`spec/60_exceptions.md`): what a clock edge does first, what a refused START
leaves behind, and that in the ranges no edge stops. -/

namespace Sys2Proof.Machine

/-! ### The refused START (R162) -/

/-- `CfgError` is taken on the sampling edge. -/
theorem exec_start_of_exceeds {s : State} {base : Addr} {len : Len} (hidle : s.busy = false)
    (hlong : 65536 < base.toNat + len.toNat) : exec (.start base len) s = .next s.takeCfgError := by
  rw [exec_start, State.startEdge_of_exceeds Config.timing hidle hlong]

/-- Settles O36: the refused START is `takeCfgError`, which writes `ERR` and `PHASE` only. -/
theorem refusedStartOnlySetsErr : Obligations.RefusedStartOnlySetsErr :=
  fun _ _ _ => exec_start_of_exceeds

/-! ### One scheduled edge, by what is sampled on it (R164) -/

section
variable {s : State} {p : Pins} {rest : List Stimulus}

theorem step_scheduled_edge (hlive : s.live = true) (hinputs : s.inputs = .edge p :: rest) :
    step s = tick Config.timing p (s.withInputs rest) := by
  rw [step_edge (.scheduled rest hinputs) hlive, State.popped, hinputs, List.tail_cons]

theorem step_edge_of_busy (hlive : s.live = true) (hinputs : s.inputs = .edge p :: rest) (hrst : p.rst = false)
    (hbusy : s.busy = true) : step s = busyTick Config.timing p (s.withInputs rest) :=
  (step_scheduled_edge hlive hinputs).trans (tick_of_busy Config.timing hrst hbusy)

/-- In `Idle` and `Done` an edge with START is the operation START. -/
theorem step_edge_of_start (hlive : s.live = true) (hinputs : s.inputs = .edge p :: rest) (hrst : p.rst = false)
    (hidle : s.busy = false) (hstart : p.start = true) : step s = exec (.start p.base p.len) (s.withInputs rest) :=
  (step_scheduled_edge hlive hinputs).trans (tick_of_start Config.timing hrst hidle hstart)

theorem step_edge_of_no_start (hlive : s.live = true) (hinputs : s.inputs = .edge p :: rest) (hrst : p.rst = false)
    (hidle : s.busy = false) (hstart : p.start = false) : step s = .next (s.withInputs rest) :=
  (step_scheduled_edge hlive hinputs).trans (tick_of_no_start Config.timing hrst hidle hstart)

/-- While busy and without a reset, a step depends on its pins through `P_DATA` alone (R153). -/
theorem step_busy_pins {q : Pins} (hlive : s.live = true) (hinputs : s.inputs = .edge p :: rest) (hrst : p.rst = false)
    (hbusy : s.busy = true) (hqrst : q.rst = false) (hdata : q.pData = p.pData) :
    step (s.withInputs (.edge q :: rest)) = step s :=
  calc step (s.withInputs (.edge q :: rest)) = busyTick Config.timing q (s.withInputs rest) :=
        step_edge_of_busy (s := s.withInputs (.edge q :: rest)) hlive rfl hqrst hbusy
    _ = busyTick Config.timing p (s.withInputs rest) := busyTick_pins Config.timing _ hdata
    _ = step s := (step_edge_of_busy hlive hinputs hrst hbusy).symm

end

/-- An accepted START makes the machine busy and leaves the error state (R150, R167). -/
theorem State.acceptStart_busy_err (s : State) (c : Config.Timing) (base : Addr) (len : Len) :
    (s.acceptStart c base len).busy = true ∧ (s.acceptStart c base len).err = false :=
  ⟨rfl, rfl⟩

/-- Settles O4: one case for each branch of the edge, in the order in which the branches are tried. -/
theorem eventsOnOneEdgeHavePriority : Obligations.EventsOnOneEdgeHavePriority := by
  intro s p rest hlive hinputs u
  refine ⟨fun hrst => ?_, fun hrst hidle hstart hfit => ?_, fun hrst hidle hstart hlong => ?_,
    fun hrst hidle hstart => ?_, fun hrst hbusy => ?_⟩
  · exact resetWorksFromEveryState.2 s p rest hinputs hrst
  · have hstep : step s = exec (.start p.base p.len) u := step_edge_of_start hlive hinputs hrst hidle hstart
    have haccept : exec (.start p.base p.len) u = .next (u.acceptStart Config.timing p.base p.len) := by
      rw [exec_start, State.startEdge_of_fits (s := u) Config.timing hidle hfit]
    exact ⟨hstep, _, hstep.trans haccept, u.acceptStart_busy_err Config.timing p.base p.len⟩
  · have hstep : step s = exec (.start p.base p.len) u := step_edge_of_start hlive hinputs hrst hidle hstart
    exact ⟨hstep, hstep.trans (exec_start_of_exceeds (s := u) hidle hlong)⟩
  · exact step_edge_of_no_start hlive hinputs hrst hidle hstart
  · exact ⟨step_edge_of_busy hlive hinputs hrst hbusy, fun _ _ _ =>
      step_busy_pins hlive hinputs hrst hbusy hrst rfl⟩

/-! ### After the refused START (R166) -/

/-- In `Idle` and `Done`, edges without START or reset only take themselves from the schedule, however many there are. -/
theorem run_of_no_start {s : State} {ps : List Pins} (rest : List Stimulus) (hlive : s.live = true)
    (hidle : s.busy = false) (hps : ∀ q ∈ ps, q.rst = false ∧ q.start = false) :
    Host.Core.run Sys2Proof.core ps.length (s.withInputs (ps.map Stimulus.edge ++ rest)) =
      .next (s.withInputs rest) := by
  induction ps with
  | nil => rfl
  | cons q ps ih =>
    obtain ⟨⟨hrst, hstart⟩, hps'⟩ := List.forall_mem_cons.1 hps
    have hedge : step (s.withInputs ((q :: ps).map Stimulus.edge ++ rest)) =
        .next (s.withInputs (ps.map Stimulus.edge ++ rest)) :=
      step_edge_of_no_start (s := s.withInputs ((q :: ps).map Stimulus.edge ++ rest)) hlive rfl hrst hidle hstart
    exact (run_succ hedge ps.length).trans (ih hps')

/-- Settles O39: the first edge takes `CfgError`, which leaves the machine in `Idle`; there the other edges change
nothing. -/
theorem refusedTransferProducesNothing : Obligations.RefusedTransferProducesNothing := by
  intro s p ps rest hlive hidle hrst hstart hlong hps hinputs
  have hrefused : step s = .next (s.takeCfgError.withInputs (ps.map Stimulus.edge ++ rest)) :=
    (step_edge_of_start hlive hinputs hrst hidle hstart).trans
      (exec_start_of_exceeds (s := s.withInputs (ps.map Stimulus.edge ++ rest)) hidle hlong)
  exact (run_succ hrefused ps.length).trans (run_of_no_start (s := s.takeCfgError) rest hlive rfl hps)

/-! ### No edge stops (R160, R175) -/

/-- Settles O52: the edge, scheduled or quiet, is a tick of a state in the ranges, and such a tick has an answer. -/
theorem edgeNeverStops : Obligations.EdgeNeverStops := by
  intro s ⟨_, hranges⟩ hlive hnext
  have hedge : ∃ p, EdgeNext s p := by
    obtain hquiet | ⟨p, rest, hinputs⟩ := hnext
    · exact ⟨.quiet, .quiet hquiet rfl⟩
    · exact ⟨p, .scheduled rest hinputs⟩
  obtain ⟨p, hp⟩ := hedge
  have hpopped : s.popped.Ranges := (hranges hlive).congr (s := s) rfl
  exact (tick_answers Config.timing p hpopped).imp fun _ => (step_edge hp hlive).trans

end Sys2Proof.Machine
end

section
/-! The hazards (`spec/70_reset_and_hazards.md`): which byte the frame of a data byte carries when the payload source is
late or the host changes the payload meanwhile, and what a loss of power leaves possible. -/

namespace Sys2Proof.Machine

/-! ### The edge on which a data byte is sampled (R141, R155) -/

section
variable {s : State} {p : Pins} {rest : List Stimulus}

/-- The edge loads what it samples on `P_DATA`, whatever that is, counts it, and moves on to the next index. -/
theorem State.AtByteEnd.step_data (hend : s.AtByteEnd) (hwants : s.wantsData = true)
    (hwithin : s.pcur.toNat + s.blen.toNat ≤ s.lenl.toNat) (hinputs : s.inputs = .edge p :: rest)
    (hrst : p.rst = false) :
    ∃ t, step s = .next t ∧ t.shreg = s.sampleData p ∧ t.csum = s.csum + s.sampleData p ∧ t.bidx = s.bidx + 1 := by
  obtain ⟨hp, h2, hle⟩ := s.wantsData_iff.1 hwants
  have hin : s.dataIndex (s.bidx.toNat - 2) < s.lenl.toNat := by
    rw [State.dataIndex]
    omega
  let u := (s.withInputs rest).recorded
  have hnext : nextByte p u = .next (u.nextIndex, some (s.sampleData p, true)) :=
    nextByte_blockBody_data (s := u) hp h2 hle hin
  exact ⟨_, (hend.step_eq hinputs hrst (State.busy_of_phase hp rfl)).trans (byteOver_of_some hnext), rfl, rfl, rfl⟩

/-- A late answer is sampled as it stands (R191). -/
theorem State.sampleData_of_late {b : Byte} (hdata : p.pData = some b) : s.sampleData p = b := by
  rw [State.sampleData, hdata, Option.getD_some]

/-- A source that answers in time gives what it holds at `P_ADDR` (R155). -/
theorem State.sampleData_of_in_time (hdata : p.pData = none) : s.sampleData p = s.memRead s.pAddr := by
  rw [State.sampleData, hdata, Option.getD_none]

end

/-- Settles O45: the byte sampled is the late one, and the edge loads and counts what it samples. -/
theorem lateAnswerIsSentAsItStands : Obligations.LateAnswerIsSentAsItStands := by
  intro s p b rest hend hp h2 hle hwithin hinputs hrst hdata
  have hloads := hend.step_data (s.wantsData_iff.2 ⟨hp, h2, hle⟩) hwithin hinputs hrst
  rwa [State.sampleData_of_late hdata] at hloads

/-! ### A payload byte changed during a transfer (R186) -/

/-- Read after write, at any two indices. -/
theorem State.placeByte_memRead (s : State) (i j : Addr) (b : Byte) :
    (s.placeByte i b).memRead j = if i = j then b else s.memRead j := by
  split
  next heq => exact heq ▸ s.placeByte_memRead_same i b
  next hne => exact s.placeByte_memRead_other b (Ne.symm hne)

/-- Placing a byte does not move the machine from the end of a byte. -/
theorem State.AtByteEnd.placeByte {s : State} (h : s.AtByteEnd) (i : Addr) (b : Byte) :
    (s.placeByte i b).AtByteEnd :=
  ⟨h.live, h.bitpos, h.half, h.timer⟩

/-- Settles O46: the placing leaves the position and `P_ADDR` as they are, so the edge samples what the new payload
holds there. -/
theorem changedPayloadByteIsSentAsItStands : Obligations.ChangedPayloadByteIsSentAsItStands := by
  intro s i b p rest hend hp h2 hle hwithin hinputs hrst hdata
  let t := (s.withInputs (.edge p :: rest)).placeByte i b
  have hplaced : step s = .next t := step_place hinputs
  have htend : t.AtByteEnd := ((s.withInputs_atByteEnd (.edge p :: rest)).2 hend).placeByte i b
  obtain ⟨u, hedge, hshreg, hcsum, _⟩ := htend.step_data (t.wantsData_iff.2 ⟨hp, h2, hle⟩) hwithin rfl hrst
  have hsampled : t.sampleData p = if i = s.pAddr then b else s.memRead s.pAddr :=
    calc t.sampleData p = t.memRead t.pAddr := State.sampleData_of_in_time hdata
      _ = t.memRead s.pAddr := congrArg t.memRead (State.pAddr_congr (s := s) rfl)
      _ = _ := (s.withInputs (.edge p :: rest)).placeByte_memRead i s.pAddr b
  exact ⟨t, u, hplaced, hedge, hshreg.trans hsampled, hshreg ▸ hcsum⟩

/-! ### Loss of power (R174, R182) -/

theorem step_powerLoss {s : State} {rest : List Stimulus} (hinputs : s.inputs = .powerLoss :: rest) :
    step s = .next (s.withInputs rest).losePower := by
  simp only [step, hinputs, stimulate]

/-- Between a loss of power and the next reset an edge without `RST` has no meaning. -/
theorem step_edge_before_reset {s : State} {p : Pins} {rest : List Stimulus} (hlive : s.live = false)
    (hinputs : s.inputs = .edge p :: rest) (hrst : p.rst = false) : step s = .refused .beforeFirstReset := by
  simp only [step, hinputs, stimulate]
  exact if_pos ⟨hlive, hrst⟩

/-- Settles O56: the machine is not live after the loss, so an edge is refused unless it resets; the reset overwrites
every register that the loss left unspecified. -/
theorem nothingRunsBeforeTheFirstReset : Obligations.NothingRunsBeforeTheFirstReset := by
  intro s p rest hinputs
  refine ⟨_, step_powerLoss hinputs, rfl, State.losePower_payload _, fun hrst => ?_, fun hrst => ?_⟩
  · exact step_edge_before_reset (s := (s.withInputs (.edge p :: rest)).losePower) rfl rfl hrst
  · exact step_edge_of_reset (s := (s.withInputs (.edge p :: rest)).losePower) rfl hrst

end Sys2Proof.Machine
end

section
/-! The operation word (log 2): each body is read back by its own decoder, and an accepted word is the word of its
operation, so decoding and encoding undo each other. -/

namespace Sys2Proof

/-! ### The fields of a word as numbers -/

theorem append_toNat {m n : Nat} (hi : BitVec m) (lo : BitVec n) :
    (hi ++ lo).toNat = hi.toNat * 2 ^ n + lo.toNat := by
  rw [BitVec.toNat_append, ← Nat.shiftLeft_add_eq_or_of_lt lo.isLt, Nat.shiftLeft_eq]

theorem extract_toNat {n : Nat} (start len : Nat) (x : BitVec n) :
    (x.extractLsb' start len).toNat = x.toNat / 2 ^ start % 2 ^ len := by
  rw [BitVec.extractLsb'_toNat, Nat.shiftRight_eq_div_pow]

theorem getLsbD_eq_iff {n : Nat} (x : BitVec n) (k : Nat) (v : Bool) :
    x.getLsbD k = v ↔ x.toNat / 2 ^ k % 2 = v.toNat := by
  rw [← BitVec.testBit_toNat, Nat.testBit_eq_decide_div_mod_eq]
  cases v <;> simp

/-! ### What each kind of body is made of -/

/-- The body of `SEND_BYTE` is a start bit, the byte, a stop bit and `count`, with nothing above. -/
theorem sendByte_body_iff {body : BitVec 40} {b : Byte} {count : Bool} :
    body = (Instr.sendByte b count).body ↔
      body.getLsbD 0 = false ∧ body.extractLsb' 1 8 = b ∧ body.getLsbD 9 = true ∧ body.getLsbD 10 = count ∧
        body.extractLsb' 11 29 = 0 := by
  have hbody := body.isLt
  have hb := b.isLt
  have hcount := count.toNat_le
  simp only [← BitVec.toNat_inj, BitVec.ofNat_eq_ofNat, getLsbD_eq_iff, extract_toNat, Instr.body, frameWord,
    BitVec.toNat_setWidth, append_toNat, BitVec.toNat_ofBool, BitVec.toNat_ofNat, Bool.toNat_false, Bool.toNat_true]
  omega

/-- The body of `TRANSMIT` and `START` is `BASE` below `LEN`, with nothing above. -/
theorem baseLen_body_iff {body : BitVec 40} {base : Addr} {len : Len} :
    body = (len ++ base).setWidth 40 ↔
      body.extractLsb' 0 16 = base ∧ body.extractLsb' 16 17 = len ∧ body.extractLsb' 33 7 = 0 := by
  have hbody := body.isLt
  have hbase := base.isLt
  have hlen := len.isLt
  simp only [← BitVec.toNat_inj, BitVec.ofNat_eq_ofNat, extract_toNat, BitVec.toNat_setWidth, append_toNat,
    BitVec.toNat_ofNat]
  omega

/-! ### What the decoder of each kind of body accepts -/

theorem decodeConstant_eq_ok_iff {expected body : BitVec 40} {e : Reject} {i j : Instr} :
    decodeConstant expected body e i = .ok j ↔ body = expected ∧ i = j := by
  unfold decodeConstant
  split <;> simp [*]

theorem decodeSendByte_eq_ok_iff {body : BitVec 40} {i : Instr} :
    decodeSendByte body = .ok i ↔ ∃ b count, i = .sendByte b count ∧ body = i.body := by
  constructor
  · intro h
    unfold decodeSendByte at h
    split at h
    · cases h
    next hframe =>
      split at h
      · cases h
      next hrest =>
        cases h
        have hbits : body.getLsbD 0 = false ∧ body.getLsbD 9 = true := by
          simpa only [Bool.or_eq_true, Bool.not_eq_true', not_or, Bool.not_eq_true, Bool.not_eq_false] using hframe
        obtain ⟨hstart, hstop⟩ := hbits
        exact ⟨_, _, rfl, sendByte_body_iff.2 ⟨hstart, rfl, hstop, rfl, not_not.1 hrest⟩⟩
  · rintro ⟨b, count, rfl, hbody⟩
    obtain ⟨hstart, hb, hstop, hcount, hrest⟩ := sendByte_body_iff.1 hbody
    have hframe : ¬(body.getLsbD 0 || !body.getLsbD 9) = true := by rw [hstart, hstop]; decide
    rw [decodeSendByte, if_neg hframe, if_neg (not_not.2 hrest), hb, hcount]

theorem decodeBaseLen_eq_ok_iff {body : BitVec 40} {mk : Addr → Len → Instr} {i : Instr} :
    decodeBaseLen body mk = .ok i ↔ ∃ base len, i = mk base len ∧ body = (len ++ base).setWidth 40 := by
  constructor
  · intro h
    unfold decodeBaseLen at h
    split at h
    · cases h
    next hrest =>
      cases h
      exact ⟨_, _, rfl, baseLen_body_iff.2 ⟨rfl, rfl, not_not.1 hrest⟩⟩
  · rintro ⟨base, len, rfl, hbody⟩
    obtain ⟨hbase, hlen, hrest⟩ := baseLen_body_iff.1 hbody
    rw [decodeBaseLen, if_neg (not_not.2 hrest), hbase, hlen]

/-! ### The whole word -/

/-- A word that decodes has the selector and the body of its operation. -/
theorem fields_of_decode {w : OpWord} {i : Instr} (h : decode w = .ok i) :
    w.extractLsb' 8 40 = i.body ∧ w.extractLsb' 0 8 = i.selector := by
  unfold decode at h
  split at h
  case h_3 hsel =>
    obtain ⟨b, count, rfl, hbody⟩ := decodeSendByte_eq_ok_iff.1 h
    exact ⟨hbody, BitVec.eq_of_toNat_eq hsel⟩
  case h_14 hsel | h_15 hsel =>
    obtain ⟨base, len, rfl, hbody⟩ := decodeBaseLen_eq_ok_iff.1 h
    exact ⟨hbody, BitVec.eq_of_toNat_eq hsel⟩
  case h_17 => cases h
  all_goals
    obtain ⟨hbody, rfl⟩ := decodeConstant_eq_ok_iff.1 h
    exact ⟨hbody, BitVec.eq_of_toNat_eq ‹_›⟩

/-- A word with the selector and the body of an operation decodes to it: the selector takes the operation's row, and
the row's decoder accepts its body. -/
theorem decode_of_fields {w : OpWord} {i : Instr} (hbody : w.extractLsb' 8 40 = i.body)
    (hsel : w.extractLsb' 0 8 = i.selector) : decode w = .ok i := by
  simp only [decode, hsel, hbody]
  cases i with
  | sendByte b count => exact decodeSendByte_eq_ok_iff.2 ⟨b, count, rfl, rfl⟩
  | transmit base len | start base len => exact decodeBaseLen_eq_ok_iff.2 ⟨base, len, rfl, rfl⟩
  | _ => exact decodeConstant_eq_ok_iff.2 ⟨rfl, rfl⟩

/-- Settles O6: an encoded operation has the operation's fields. -/
theorem decodeOfEncodeIsTheOperation : Obligations.DecodeOfEncodeIsTheOperation := fun i _ =>
  decode_of_fields BitVec.extractLsb'_append_eq_left (Laws.extract_selector i.body i.selector)

/-- Settles O7: a word is its two fields put together. -/
theorem encodeOfDecodeIsTheWord : Obligations.EncodeOfDecodeIsTheWord := by
  intro w i h
  obtain ⟨hbody, hsel⟩ := fields_of_decode h
  calc encode i = w.extractLsb' 8 40 ++ w.extractLsb' 0 8 := by rw [encode, hbody, hsel]
    _ = w := BitVec.extractLsb'_append_extractLsb'

/-- Settles O5: the selector and the body are read off each word. -/
theorem writtenWordsDecode : Obligations.WrittenWordsDecode :=
  ⟨rfl, rfl, rfl, rfl, rfl, rfl, rfl, rfl⟩

end Sys2Proof
end

section
/-! What the model refuses by name: calls without a meaning (logs 1, 2, 12, 13), and the sequencer positions that the
table of R141 does not hold (log 11). -/

namespace Sys2Proof.Machine

/-! ### Calls -/

theorem callStep_of_undecodable {w : OpWord} {e : Reject} (s : State) (hdec : decode w = .error e) :
    callStep w s = .refused (.undecodable e) := by
  simp only [callStep, hdec]

theorem callStep_of_illFormed {s : State} {w : OpWord} {i : Instr} (hlive : s.live = true) (hdec : decode w = .ok i)
    (hwf : i.wellFormed = false) : callStep w s = .refused .illFormed :=
  (callStep_of_live hlive hdec).trans (if_neg (ne_true_of_eq_false hwf))

/-- Settles O3: the call is taken from the schedule, then refused by the decoder or by well-formedness. -/
theorem callsWithoutMeaningAreRefused : Obligations.CallsWithoutMeaningAreRefused := fun s _ rest hinputs =>
  ⟨fun _ hdec => (step_call hinputs).trans (callStep_of_undecodable _ hdec),
    fun _ hdec hwf hlive =>
      (step_call hinputs).trans (callStep_of_illFormed ((s.withInputs_live rest).trans hlive) hdec hwf)⟩

/-- Settles O24: the precondition of `BLOCK` (R130) does not hold. -/
theorem blockNeedsPayloadLeft : Obligations.BlockNeedsPayloadLeft := fun _ h =>
  if_neg (Nat.not_lt.2 h)

/-- Settles O32: the operand condition of `TRANSMIT` (R136) does not hold. -/
theorem transmitNeedsRoom : Obligations.TransmitNeedsRoom := fun _ base len h =>
  if_neg (ne_true_of_eq_false ((fitsTarget_eq_false base len).2 h))

/-! ### Positions that the table of R141 does not hold -/

section
variable {p : Pins} {s : State}

/-- A cursor past the end is neither before another block nor before the trailer. -/
theorem nextBlockOrTrailer_of_gt {cursor : Nat} (h : s.lenl.toNat < cursor) :
    nextBlockOrTrailer s cursor = .refused .unreachablePosition := by
  rw [nextBlockOrTrailer, if_neg (by omega), if_neg (by omega)]

/-- The phases of two bytes have no third one. -/
theorem nextByte_after_second (hp : s.phase = .preamble ∨ s.phase = .blockStart ∨ s.phase = .trailer)
    (h2 : 2 ≤ s.bidx.toNat) : nextByte p s = .refused .unreachablePosition := by
  have hne0 : ¬s.bidx = 0 := fun h => by simp [h] at h2
  have hne1 : ¬s.bidx = 1 := fun h => by simp [h] at h2
  obtain hp | hp | hp := hp <;> simp only [nextByte, hp, if_neg hne0, if_neg hne1]

theorem nextByte_blockBody_after_last (hp : s.phase = .blockBody) (hi : s.blen.toNat + 2 < s.bidx.toNat) :
    nextByte p s = .refused .unreachablePosition := by
  rw [nextByte_blockBody hp, nextInBody_of_two_le (by omega), if_neg (by omega), if_neg (by omega)]

theorem nextByte_blockChecksum_after_first (hp : s.phase = .blockChecksum) (h1 : 1 ≤ s.bidx.toNat) :
    nextByte p s = .refused .unreachablePosition := by
  have hne0 : ¬s.bidx = 0 := fun h => by simp [h] at h1
  simp only [nextByte, hp, if_neg hne0]

theorem nextByte_preamble_past_end (hp : s.phase = .preamble) (h1 : s.bidx = 1)
    (hpast : s.lenl.toNat < s.pcur.toNat) : nextByte p s = .refused .unreachablePosition :=
  (nextByte_preamble_second hp h1).trans (nextBlockOrTrailer_of_gt hpast)

theorem nextByte_blockChecksum_past_end (hp : s.phase = .blockChecksum) (h0 : s.bidx = 0)
    (hpast : s.lenl.toNat < s.pcurAfter) : nextByte p s = .refused .unreachablePosition :=
  (nextByte_blockChecksum hp h0).trans (nextBlockOrTrailer_of_gt hpast)

end

theorem byteOver_of_refused {c : Config.Timing} {p : Pins} {s : State} {r : Refusal}
    (h : nextByte p s = .refused r) : byteOver c p s = .refused r := by
  simp only [byteOver, h]

/-- Settles O57: on the edge that ends a byte the step is `Next` on the recorded state, whose position is that of
`s`. -/
theorem unreachablePositionIsRefused : Obligations.UnreachablePositionIsRefused := by
  intro s p rest hend hinputs hrst
  have hrefused (hbusy : s.busy = true)
      (hnext : nextByte p (s.withInputs rest).recorded = .refused .unreachablePosition) :
      step s = .refused .unreachablePosition :=
    (hend.step_eq hinputs hrst hbusy).trans (byteOver_of_refused hnext)
  refine ⟨fun hp h2 => ?_, fun hp hi => ?_, fun hp h1 => ?_, fun hp h1 hpast => ?_, fun hp h0 hpast => ?_⟩
  · have hbusy : s.busy = true := by obtain hp | hp | hp := hp <;> exact State.busy_of_phase hp rfl
    exact hrefused hbusy (nextByte_after_second hp h2)
  · exact hrefused (State.busy_of_phase hp rfl) (nextByte_blockBody_after_last hp hi)
  · exact hrefused (State.busy_of_phase hp rfl) (nextByte_blockChecksum_after_first hp h1)
  · exact hrefused (State.busy_of_phase hp rfl) (nextByte_preamble_past_end hp h1 hpast)
  · exact hrefused (State.busy_of_phase hp rfl) (nextByte_blockChecksum_past_end hp h0 hpast)

end Sys2Proof.Machine
end
